-- ==== Sys2Proof/Word.lean ====
section
/-!
DEFINITION. The bit-vector types of the CORE: what the spec treats as bits, and nothing else.
Field elements, scalars and coordinates are integers (R7, R11) and are Nat everywhere in the model.
-/

namespace Sys2Proof

/-- One byte of a slot, of the message RAM, or of a hashed string (R7). -/
abbrev Byte := BitVec 8

/-- A bus word, a register, a command word (R28, R51, R80). -/
abbrev Word := BitVec 32

/-- A bus address A[15:0] (R51). -/
abbrev Addr := BitVec 16

/-- A 32-byte string, byte j in bits 8j+7..8j: the numbering R8 gives ("Byte 31 of a 32-byte encoding
holds bits 255..248 of the value"), so that its LE value is its value as a number. -/
abbrev Slot := BitVec 256

/-- A 64-byte string, numbered the same way: a slot pair (R22), a SHA-512 digest (R6), a signature (R173). -/
abbrev Bytes64 := BitVec 512

end Sys2Proof
end

