-- ==== Sys2Proof/Syntax.lean ====
section
/-!
DEFINITION. The commands of ED25519-CORE: one constructor for each row of the opcode map (R83), its operands in
the order d, a, b, c with the unused fields left out (R87).
-/

namespace Sys2Proof

/-- Operand kind S of R81: the slot D[i], 0 ≤ i ≤ 15. -/
abbrev SlotIx := Fin 16

/-- Operand kind SP of R81: h names the slot pair DP[2h] = D[2h] ‖ D[2h+1] (R22), so every value is an even pair. -/
abbrev PairIx := Fin 8

/-- Operand kind PR of R81: the point register P[j], 0 ≤ j ≤ 7. -/
abbrev PointIx := Fin 8

/-- The commands (R83). -/
inductive Instr where
  | fadd (d a b : SlotIx)
  | fsub (d a b : SlotIx)
  | fmul (d a b : SlotIx)
  | fsq (d a : SlotIx)
  | finv (d a : SlotIx)
  | fneg (d a : SlotIx)
  | fcswap (d a b : SlotIx)
  | fcanon (d a : SlotIx)
  | sred (d : SlotIx) (a : PairIx)
  | smuladd (d a b c : SlotIx)
  | pdec (d : PointIx) (a : SlotIx)
  | pdecn (d : PointIx) (a : SlotIx)
  | penc (d : SlotIx) (a : PointIx)
  | padd (d a b : PointIx)
  | pdbl (d a : PointIx)
  | pneg (d a : PointIx)
  | psmb (d : PointIx) (a : SlotIx)
  | pdsm (d : PointIx) (a : SlotIx) (b : PointIx) (c : SlotIx)
  | keypair (d a : SlotIx) (b : PairIx)
  | signSeed (d : PairIx) (a : SlotIx)
  | signExp (d a : PairIx)
  | signKp (d : PairIx) (a b : SlotIx)
  | verify (a : PairIx) (b : SlotIx)
  | openMsg (b : SlotIx)
  deriving DecidableEq, Repr

/-- The low slot D[k] of the pair DP[k], k = 2h (R22). -/
def PairIx.low (h : PairIx) : SlotIx := ⟨2 * h.val, by omega⟩

/-- The high slot D[k+1] of the pair DP[k], k = 2h (R22). -/
def PairIx.high (h : PairIx) : SlotIx := ⟨2 * h.val + 1, by omega⟩

end Sys2Proof
end

