-- ==== Sys2Proof/WellFormed.lean ====
section
/-!
DEFINITION. Which command terms are legal. The operand types already rule out conditions 3 to 5 of R84 (a non-zero
unused field, an odd pair, a point register above 7); what is left is condition 6.
-/

namespace Sys2Proof

/-- Condition 6 of R84: for KEYPAIR, d = b or d = b + 1 (b the pair's even index) is illegal. -/
def keypairOverlap (d : SlotIx) (b : PairIx) : Bool :=
  d == b.low || d == b.high

/-- A legal command term (R84). -/
def Instr.wf : Instr → Bool
  | .fadd _ _ _ => true
  | .fsub _ _ _ => true
  | .fmul _ _ _ => true
  | .fsq _ _ => true
  | .finv _ _ => true
  | .fneg _ _ => true
  | .fcswap _ _ _ => true
  | .fcanon _ _ => true
  | .sred _ _ => true
  | .smuladd _ _ _ _ => true
  | .pdec _ _ => true
  | .pdecn _ _ => true
  | .penc _ _ => true
  | .padd _ _ _ => true
  | .pdbl _ _ => true
  | .pneg _ _ => true
  | .psmb _ _ => true
  | .pdsm _ _ _ _ => true
  | .keypair d _ b => !keypairOverlap d b
  | .signSeed _ _ => true
  | .signExp _ _ => true
  | .signKp _ _ _ => true
  | .verify _ _ => true
  | .openMsg _ => true

end Sys2Proof
end

