-- ==== Sys2Proof/Decode.lean ====
section
/-!
DEFINITION. The command decoder, total on every 32-bit word and rejecting by name (R80 to R84), the encoder (R87),
and the opcode map of R83 as a table of rows.
-/

namespace Sys2Proof

/-- Why a word is illegal: the six conditions of R84. Every one of them ends the command with ERR = ILLEGAL (R202). -/
inductive DecodeError where
  /-- R84 (1): the op is not in the map. -/
  | reservedOpcode
  /-- R84 (2): w[31:24] ≠ 0. -/
  | reservedBits
  /-- R84 (3): a field of kind Z is not 0. -/
  | unusedField
  /-- R84 (4): a field of kind SP is odd. -/
  | oddPair
  /-- R84 (5): a field of kind PR is greater than 7. -/
  | pointIndex
  /-- R84 (6): KEYPAIR with d = b or d = b + 1. -/
  | keypairOverlap
  deriving DecidableEq, Repr

/-! ### The fields of the format CMD32 (R80) -/

/-- `op`, bits 7:0. -/
def opField (w : Word) : BitVec 8 := w.extractLsb' 0 8
/-- `d`, bits 11:8. -/
def dField (w : Word) : BitVec 4 := w.extractLsb' 8 4
/-- `a`, bits 15:12. -/
def aField (w : Word) : BitVec 4 := w.extractLsb' 12 4
/-- `b`, bits 19:16. -/
def bField (w : Word) : BitVec 4 := w.extractLsb' 16 4
/-- `c`, bits 23:20. -/
def cField (w : Word) : BitVec 4 := w.extractLsb' 20 4
/-- `rsv`, bits 31:24. -/
def rsvField (w : Word) : BitVec 8 := w.extractLsb' 24 8

/-! ### The operand kinds (R81) -/

/-- Kind S: any value names a slot. -/
def readS (f : BitVec 4) : SlotIx := f.toFin

/-- Kind SP: the value must be even. -/
def readSP (f : BitVec 4) : Except DecodeError PairIx :=
  if f.toNat % 2 = 0 then .ok ⟨f.toNat / 2, by have := f.isLt; omega⟩ else .error .oddPair

/-- Kind PR: the value must be at most 7. -/
def readPR (f : BitVec 4) : Except DecodeError PointIx :=
  if h : f.toNat < 8 then .ok ⟨f.toNat, h⟩ else .error .pointIndex

/-- Kind Z: the field must be 0. -/
def readZ (f : BitVec 4) : Except DecodeError Unit :=
  if f = 0 then .ok () else .error .unusedField

/-! ### Decoding -/

/-- The command a word of opcode `op` whose bits 31:24 are 0 stands for (R83). -/
def decodeOp (op : Nat) (d a b c : BitVec 4) : Except DecodeError Instr :=
  match op with
  | 0x01 => do readZ c; return .fadd (readS d) (readS a) (readS b)
  | 0x02 => do readZ c; return .fsub (readS d) (readS a) (readS b)
  | 0x03 => do readZ c; return .fmul (readS d) (readS a) (readS b)
  | 0x04 => do readZ b; readZ c; return .fsq (readS d) (readS a)
  | 0x05 => do readZ b; readZ c; return .finv (readS d) (readS a)
  | 0x06 => do readZ b; readZ c; return .fneg (readS d) (readS a)
  | 0x07 => do readZ c; return .fcswap (readS d) (readS a) (readS b)
  | 0x08 => do readZ b; readZ c; return .fcanon (readS d) (readS a)
  | 0x10 => do let a ← readSP a; readZ b; readZ c; return .sred (readS d) a
  | 0x11 => return .smuladd (readS d) (readS a) (readS b) (readS c)
  | 0x20 => do let d ← readPR d; readZ b; readZ c; return .pdec d (readS a)
  | 0x21 => do let d ← readPR d; readZ b; readZ c; return .pdecn d (readS a)
  | 0x22 => do let a ← readPR a; readZ b; readZ c; return .penc (readS d) a
  | 0x23 => do let d ← readPR d; let a ← readPR a; let b ← readPR b; readZ c; return .padd d a b
  | 0x24 => do let d ← readPR d; let a ← readPR a; readZ b; readZ c; return .pdbl d a
  | 0x25 => do let d ← readPR d; let a ← readPR a; readZ b; readZ c; return .pneg d a
  | 0x26 => do let d ← readPR d; readZ b; readZ c; return .psmb d (readS a)
  | 0x27 => do let d ← readPR d; let b ← readPR b; return .pdsm d (readS a) b (readS c)
  | 0x30 => do
      let b ← readSP b; readZ c
      if keypairOverlap (readS d) b then .error .keypairOverlap else return .keypair (readS d) (readS a) b
  | 0x31 => do let d ← readSP d; readZ b; readZ c; return .signSeed d (readS a)
  | 0x32 => do let d ← readSP d; let a ← readSP a; readZ b; readZ c; return .signExp d a
  | 0x33 => do let d ← readSP d; readZ c; return .signKp d (readS a) (readS b)
  | 0x34 => do readZ d; let a ← readSP a; readZ c; return .verify a (readS b)
  | 0x35 => do readZ d; readZ a; readZ c; return .openMsg (readS b)
  | _ => .error .reservedOpcode

/-- Decode one command word: the command it stands for, or the condition of R84 that makes it illegal. -/
def decode (w : Word) : Except DecodeError Instr :=
  if rsvField w = 0 then decodeOp (opField w).toNat (dField w) (aField w) (bField w) (cField w)
  else .error .reservedBits

/-! ### Encoding -/

/-- w = op | d<<8 | a<<12 | b<<16 | c<<20, bits 31:24 zero (R80, R87). -/
def pack (op : BitVec 8) (d a b c : BitVec 4) : Word :=
  (0 : BitVec 8) ++ c ++ b ++ a ++ d ++ op

/-- The field of a slot operand. -/
def fieldS (i : SlotIx) : BitVec 4 := BitVec.ofFin i
/-- The field of a slot-pair operand: the even index 2h. -/
def fieldSP (h : PairIx) : BitVec 4 := BitVec.ofNat 4 (2 * h.val)
/-- The field of a point-register operand. -/
def fieldPR (j : PointIx) : BitVec 4 := BitVec.ofNat 4 j.val

/-- The word of a command, with the unused fields 0 (R83, R87). -/
def encode : Instr → Word
  | .fadd d a b => pack 0x01 (fieldS d) (fieldS a) (fieldS b) 0
  | .fsub d a b => pack 0x02 (fieldS d) (fieldS a) (fieldS b) 0
  | .fmul d a b => pack 0x03 (fieldS d) (fieldS a) (fieldS b) 0
  | .fsq d a => pack 0x04 (fieldS d) (fieldS a) 0 0
  | .finv d a => pack 0x05 (fieldS d) (fieldS a) 0 0
  | .fneg d a => pack 0x06 (fieldS d) (fieldS a) 0 0
  | .fcswap d a b => pack 0x07 (fieldS d) (fieldS a) (fieldS b) 0
  | .fcanon d a => pack 0x08 (fieldS d) (fieldS a) 0 0
  | .sred d a => pack 0x10 (fieldS d) (fieldSP a) 0 0
  | .smuladd d a b c => pack 0x11 (fieldS d) (fieldS a) (fieldS b) (fieldS c)
  | .pdec d a => pack 0x20 (fieldPR d) (fieldS a) 0 0
  | .pdecn d a => pack 0x21 (fieldPR d) (fieldS a) 0 0
  | .penc d a => pack 0x22 (fieldS d) (fieldPR a) 0 0
  | .padd d a b => pack 0x23 (fieldPR d) (fieldPR a) (fieldPR b) 0
  | .pdbl d a => pack 0x24 (fieldPR d) (fieldPR a) 0 0
  | .pneg d a => pack 0x25 (fieldPR d) (fieldPR a) 0 0
  | .psmb d a => pack 0x26 (fieldPR d) (fieldS a) 0 0
  | .pdsm d a b c => pack 0x27 (fieldPR d) (fieldS a) (fieldPR b) (fieldS c)
  | .keypair d a b => pack 0x30 (fieldS d) (fieldS a) (fieldSP b) 0
  | .signSeed d a => pack 0x31 (fieldSP d) (fieldS a) 0 0
  | .signExp d a => pack 0x32 (fieldSP d) (fieldSP a) 0 0
  | .signKp d a b => pack 0x33 (fieldSP d) (fieldS a) (fieldS b) 0
  | .verify a b => pack 0x34 0 (fieldSP a) (fieldS b) 0
  | .openMsg b => pack 0x35 0 0 (fieldS b) 0

/-- What the decoder reads from an opcode-table word of `nbits` bits: every command is one 32-bit word (R80), and a
bit above `nbits` is 0. -/
def decodeTableWord (nbits w : Nat) : Option Instr :=
  match decode (BitVec.ofNat 32 (w % 2 ^ nbits)) with
  | .ok i => some i
  | .error _ => none

/-! ### The opcode map (R83) as it is printed -/

/-- One row of R83: a word belongs to it when `w &&& mask = value`. -/
structure OpRow where
  mnemonic : String
  value : Word
  mask : Word
  deriving DecidableEq, Repr

/-- The 24 rows of R83. -/
def opRows : List OpRow :=
  [⟨"FADD", 0x00000001, 0xFFF000FF⟩, ⟨"FSUB", 0x00000002, 0xFFF000FF⟩, ⟨"FMUL", 0x00000003, 0xFFF000FF⟩,
   ⟨"FSQ", 0x00000004, 0xFFFF00FF⟩, ⟨"FINV", 0x00000005, 0xFFFF00FF⟩, ⟨"FNEG", 0x00000006, 0xFFFF00FF⟩,
   ⟨"FCSWAP", 0x00000007, 0xFFF000FF⟩, ⟨"FCANON", 0x00000008, 0xFFFF00FF⟩] ++
  [⟨"SRED", 0x00000010, 0xFFFF10FF⟩, ⟨"SMULADD", 0x00000011, 0xFF0000FF⟩] ++
  [⟨"PDEC", 0x00000020, 0xFFFF08FF⟩, ⟨"PDECN", 0x00000021, 0xFFFF08FF⟩, ⟨"PENC", 0x00000022, 0xFFFF80FF⟩,
   ⟨"PADD", 0x00000023, 0xFFF888FF⟩, ⟨"PDBL", 0x00000024, 0xFFFF88FF⟩, ⟨"PNEG", 0x00000025, 0xFFFF88FF⟩,
   ⟨"PSMB", 0x00000026, 0xFFFF08FF⟩, ⟨"PDSM", 0x00000027, 0xFF0808FF⟩] ++
  [⟨"KEYPAIR", 0x00000030, 0xFFF100FF⟩, ⟨"SIGN_SEED", 0x00000031, 0xFFFF01FF⟩, ⟨"SIGN_EXP", 0x00000032, 0xFFFF11FF⟩,
   ⟨"SIGN_KP", 0x00000033, 0xFFF001FF⟩, ⟨"VERIFY", 0x00000034, 0xFFF01FFF⟩, ⟨"OPEN", 0x00000035, 0xFFF0FFFF⟩]

/-- The mnemonic of a command, as R83 spells it. -/
def Instr.mnemonic : Instr → String
  | .fadd _ _ _ => "FADD"
  | .fsub _ _ _ => "FSUB"
  | .fmul _ _ _ => "FMUL"
  | .fsq _ _ => "FSQ"
  | .finv _ _ => "FINV"
  | .fneg _ _ => "FNEG"
  | .fcswap _ _ _ => "FCSWAP"
  | .fcanon _ _ => "FCANON"
  | .sred _ _ => "SRED"
  | .smuladd _ _ _ _ => "SMULADD"
  | .pdec _ _ => "PDEC"
  | .pdecn _ _ => "PDECN"
  | .penc _ _ => "PENC"
  | .padd _ _ _ => "PADD"
  | .pdbl _ _ => "PDBL"
  | .pneg _ _ => "PNEG"
  | .psmb _ _ => "PSMB"
  | .pdsm _ _ _ _ => "PDSM"
  | .keypair _ _ _ => "KEYPAIR"
  | .signSeed _ _ => "SIGN_SEED"
  | .signExp _ _ => "SIGN_EXP"
  | .signKp _ _ _ => "SIGN_KP"
  | .verify _ _ => "VERIFY"
  | .openMsg _ => "OPEN"

end Sys2Proof
end

