-- ==== Sys2Proof/Config.lean ====
section
/-!
DEFINITION. What an implementation of the CORE fixes (the parameters of R6) and the values the spec leaves open.
MSG_SIZE and STRICT_S are plain data held in the state, so that a statement about every state is about every
choice of them; SHA512 and the power-on contents of the message RAM are free values without a body.
-/

namespace Sys2Proof

/-- The parameters MSG_SIZE and STRICT_S of R6, which the PARAM register shows (R32). -/
structure Params where
  /-- MSG_SIZE, in bytes. -/
  msgSize : Nat
  /-- STRICT_S: VERIFY and OPEN also reject LE(S) ≥ ℓ (R181). -/
  strictS : Bool
  deriving DecidableEq, Repr

/-- The range R6 gives MSG_SIZE: "multiple of 4, 64 ≤ MSG_SIZE ≤ 4096". -/
abbrev Params.Ok (p : Params) : Prop :=
  p.msgSize % 4 = 0 ∧ 64 ≤ p.msgSize ∧ p.msgSize ≤ 4096

/-- The values R6 takes by default: MSG_SIZE = 4096, STRICT_S = false. -/
def Params.default : Params := ⟨4096, false⟩

/-- The parameter SHA512 of R6, a total function from byte strings to 64-byte strings (N20: no SHA-512 is built
into the model). It is a free value: no proof can see what it is. Assumption log 1. -/
opaque Config.sha512 : List Byte → Bytes64

/-- What byte n of the message RAM holds after power-on number k until it is written: "each byte an
unconstrained value" (R38), "fixed until written" (93, section 1). A free value. Assumption log 2. -/
opaque Config.powerOnByte : Nat → Nat → Byte

end Sys2Proof
end

