-- ==== Sys2Proof/Machine/State.lean ====
section
/-!
DEFINITION. The state of the CORE as plain data: everything 10_state.md gives the machine, and the two things the
model adds so that one deterministic step function can run both agents of R50: the events still to come in the
total order of R63, and the bus response the host saw last (R51).
-/

namespace Sys2Proof.Machine

/-- Why the machine stops. The CORE has no traps (R200) and every bus access is answered (R51), so nothing raises a
fault and the type has no constructor: the model never stops this way. Safe: there is no claim it could make true. -/
inductive Fault where
  deriving DecidableEq, Repr

/-- No meaning for a command. -/
inductive Refusal where
  /-- Raised only by an arm of `exec` that has no meaning yet, under the command's mnemonic; none has it now. Safe:
  the model stops where the hardware goes on. -/
  | notModelled (mnemonic : String)
  deriving DecidableEq, Repr

/-- The error codes of STATUS.ERR (R201). Codes 7 to 15 are "never written", so they have no name here. -/
inductive ErrCode where
  | ok
  | illegal
  | uninit
  | length
  | range
  | notOnCurve
  | negZero
  deriving DecidableEq, Repr

/-- A point register's contents: an affine pair of field elements (R14, R25: "A model may hold the affine pair"). -/
structure Point where
  x : Nat
  y : Nat
  deriving DecidableEq, Repr

/-- The engine state of R37, which also is STATUS.BUSY: IDLE, or BUSY with the latched command word (R20). -/
inductive Engine where
  | idle
  | busy (w : Word)
  deriving DecidableEq, Repr

/-- The message RAM MSG (R27): the bytes written since power-on number `powerOns`, in ascending order of their index.
A byte that is not listed has not been written since that power-on. -/
structure Memory where
  powerOns : Nat
  cells : List Host.Cell
  deriving DecidableEq, Repr

/-- The two kinds of bus access (R51). -/
inductive BusOp where
  | read
  | write (v : Word)
  deriving DecidableEq, Repr

/-- One bus access of the host: address, byte strobes (R56), read or write. -/
structure BusAccess where
  addr : Addr
  strobes : BitVec 4
  op : BusOp
  deriving DecidableEq, Repr

/-- One event of the total order of R63, as it reaches the CORE from outside. -/
inductive Event where
  /-- A bus access of the host (R50 (1)). -/
  | bus (a : BusAccess)
  /-- The engine takes its step here if it is BUSY (R50 (2)): where the completion falls among the host's accesses. -/
  | engine
  /-- The hardware reset input is asserted and released (R230). -/
  | powerOn
  deriving DecidableEq, Repr

/-- How an access ended (R51): OKAY or ERROR, with the read data the spec states for it, if any. -/
inductive BusResponse where
  | okay (data : Option Word)
  | error (data : Option Word)
  deriving DecidableEq, Repr

/-- The state of the CORE. -/
structure State where
  /-- The parameters MSG_SIZE and STRICT_S (R6), shown by PARAM (R32). Fixed. -/
  params : Params
  /-- CMD (R29): the last accepted command word. -/
  cmd : Word
  /-- The engine state (R37); STATUS.BUSY (R30) is a view of it. -/
  engine : Engine
  /-- STATUS.DONE (R30). -/
  done : Bool
  /-- STATUS.ERR (R30, R201). -/
  err : ErrCode
  /-- STATUS.VALID (R30). -/
  valid : Bool
  /-- STATUS.Z0 (R30). -/
  z0 : Bool
  /-- STATUS.OVF (R30). -/
  ovf : Bool
  /-- CTRL.IE (R33). -/
  ie : Bool
  /-- MSG_LEN (R34). -/
  msgLen : Word
  /-- OUT_LEN (R35). -/
  outLen : Word
  /-- The data slots D0 to D15 (R21). -/
  slots : Vector Slot 16
  /-- The point registers P0 to P7 with their valid bits (R23): `none` is PV = 0, which "holds no value". -/
  points : Vector (Option Point) 8
  /-- The message RAM (R27). -/
  msg : Memory
  /-- The model's own: the events still to come, the next one first (R63). Assumption log 3. -/
  events : List Event
  /-- The model's own: the response of the last bus access (R51). Assumption log 4. -/
  response : Option BusResponse
  deriving DecidableEq, Repr

/-- The state after power-on with the given parameters: the power-on column of R38. -/
def State.resetWith (p : Params) : State where
  params := p
  cmd := 0
  engine := .idle
  done := false
  err := .ok
  valid := false
  z0 := false
  ovf := false
  ie := false
  msgLen := 0
  outLen := 0
  slots := Vector.replicate 16 0
  points := Vector.replicate 8 none
  msg := ⟨0, []⟩
  events := []
  response := none

/-- The machine right after reset (R38, R230), with the parameters at the values R6 takes by default. -/
def State.reset : State := State.resetWith Params.default

end Sys2Proof.Machine
end

