-- ==== Sys2Proof/Machine/Flags.lean ====
section
/-!
DEFINITION. The flags of R40: the STATUS word, how each event of R36, R37 and CTRL.CLR changes it, and the other
register words the host reads.
-/

namespace Sys2Proof.Machine

/-- The code of R201. -/
def ErrCode.code : ErrCode → BitVec 4
  | .ok => 0
  | .illegal => 1
  | .uninit => 2
  | .length => 3
  | .range => 4
  | .notOnCurve => 5
  | .negZero => 6

/-- STATUS.BUSY: 1 while a command executes (R30). -/
def State.busy (s : State) : Bool :=
  match s.engine with
  | .idle => false
  | .busy _ => true

/-- STATUS as the host reads it (R30): OVF 10, Z0 9, VALID 8, ERR 7:4, DONE 1, BUSY 0, the rest 0 (R39). -/
def State.statusWord (s : State) : Word :=
  (0 : BitVec 21) ++ BitVec.ofBool s.ovf ++ BitVec.ofBool s.z0 ++ BitVec.ofBool s.valid ++ s.err.code
    ++ (0 : BitVec 2) ++ BitVec.ofBool s.done ++ BitVec.ofBool s.busy

/-- CTRL as the host reads it (R33): IE in bit 2, SRST and CLR read 0. -/
def State.ctrlWord (s : State) : Word := (0 : BitVec 29) ++ BitVec.ofBool s.ie ++ (0 : BitVec 2)

/-- ID (R31). -/
def idWord : Word := 0xED250001

/-- PARAM (R32): MSG_SIZE in bits 15:0, STRICT_S in bit 16. -/
def State.paramWord (s : State) : Word :=
  (0 : BitVec 15) ++ BitVec.ofBool s.params.strictS ++ BitVec.ofNat 16 s.params.msgSize

/-- The interrupt output IRQ = CTRL.IE ∧ STATUS.DONE (R210). -/
def State.irq (s : State) : Bool := s.ie && s.done

/-- CTRL.CLR: DONE, Z0 and OVF cleared; BUSY, ERR and VALID unchanged (R33). -/
def State.clearFlags (s : State) : State := { s with done := false, z0 := false, ovf := false }

/-- The flags at acceptance (R36): DONE, ERR and VALID cleared, Z0 and OVF unchanged. -/
def State.acceptFlags (s : State) : State := { s with done := false, err := .ok, valid := false }

/-- The flags at completion (R37): ERR takes the code and DONE is set. -/
def State.completeFlags (s : State) (e : ErrCode) : State := { s with done := true, err := e }

/-- A CMD write while BUSY sets OVF (R29, R207). -/
def State.setOvf (s : State) : State := { s with ovf := true }

/-- FINV sets Z0 when its input is 0 and leaves it otherwise (R105). -/
def State.setZ0If (s : State) (c : Bool) : State := { s with z0 := s.z0 || c }

/-- VERIFY and OPEN write VALID (R180, R186). -/
def State.setValid (s : State) (v : Bool) : State := { s with valid := v }

end Sys2Proof.Machine
end

