-- ==== Sys2Proof/Machine/Bytes.lean ====
section
/-!
DEFINITION. Byte strings and their little-endian values (R7, R8), and the bits of a slot.
-/

namespace Sys2Proof.Machine

/-- LE(bs) = Σ bs[j]·256^j (R8). -/
def leNat : List Byte → Nat
  | [] => 0
  | b :: bs => b.toNat + 256 * leNat bs

/-- Byte j of a string held as a bit vector: bits 8j+7..8j (R8). -/
def byteAt {n : Nat} (w : BitVec n) (j : Nat) : Byte := w.extractLsb' (8 * j) 8

/-- The first k bytes of a string held as a bit vector, first byte first. -/
def bytesOf {n : Nat} (k : Nat) (w : BitVec n) : List Byte := (List.range k).map (byteAt w)

/-- The 32 bytes of a slot (R21). -/
def slotBytes (w : Slot) : List Byte := bytesOf 32 w

/-- a ‖ b for two 32-byte strings (R22). -/
def join (a b : Slot) : Bytes64 := b ++ a

/-- bs[0..32) of a 64-byte string. -/
def firstHalf (w : Bytes64) : Slot := w.extractLsb' 0 256

/-- bs[32..64) of a 64-byte string. -/
def secondHalf (w : Bytes64) : Slot := w.extractLsb' 256 256

/-- The 64-byte string with the given bytes (R9: the first 64 bytes of the message RAM, as OPEN reads them). -/
def bytes64 (bs : List Byte) : Bytes64 := BitVec.ofNat 512 (leNat bs)

/-- LEB_32(v) (R8), defined for v < 2^256. -/
def leb32 (v : Nat) : Slot := BitVec.ofNat 256 v

/-- Word m (0 ≤ m < 8) of a slot: bytes 4m to 4m+3 (R53, R54). -/
def slotWord (w : Slot) (m : Nat) : Word := w.extractLsb' (32 * m) 32

/-- The slot with word m replaced (R53, R54). -/
def setSlotWord (w : Slot) (m : Nat) (v : Word) : Slot :=
  (w &&& ~~~(BitVec.ofNat 256 0xFFFFFFFF <<< (32 * m))) ||| (v.setWidth 256 <<< (32 * m))

/-- clamp(b) (R5): bits 0, 1, 2 of byte 0 and bit 7 of byte 31 cleared, bit 6 of byte 31 set. -/
def clamp (b : Slot) : Slot :=
  (b &&& ~~~(BitVec.ofNat 256 (0x80 * 2 ^ 248 + 7))) ||| BitVec.ofNat 256 (0x40 * 2 ^ 248)

end Sys2Proof.Machine
end

