-- ==== Sys2Proof/Machine/Operands.lean ====
section
/-!
DEFINITION. The operand forms of R81 as reads and writes of the state (R9): slot, slot pair, point register.
-/

namespace Sys2Proof.Machine

/-- Read D[i] (R9, R21). -/
def State.slot (s : State) (i : SlotIx) : Slot := s.slots.get i

/-- Write D[i] (R9, R21). -/
def State.setSlot (s : State) (i : SlotIx) (v : Slot) : State := { s with slots := s.slots.set i v }

/-- Read DP[k] = D[k] ‖ D[k+1] (R22). -/
def State.pair (s : State) (h : PairIx) : Bytes64 := join (s.slot h.low) (s.slot h.high)

/-- Write DP[k]: D[k] gets bytes 0..31, D[k+1] bytes 32..63 (R22). -/
def State.setPair (s : State) (h : PairIx) (v : Bytes64) : State :=
  (s.setSlot h.low (firstHalf v)).setSlot h.high (secondHalf v)

/-- P[j] if its valid bit PV[j] is 1, `none` if it is 0 (R23). -/
def State.point (s : State) (j : PointIx) : Option Point := s.points.get j

/-- Write P[j] and set PV[j] (R9, R23). -/
def State.setPoint (s : State) (j : PointIx) (q : Point) : State := { s with points := s.points.set j (some q) }

/-- A command's read of a point register: UNINIT when PV[j] = 0 (R24, R140, R203). -/
def State.readPoint (s : State) (j : PointIx) : Except ErrCode Point :=
  match s.point j with
  | some q => .ok q
  | none => .error .uninit

end Sys2Proof.Machine
end

