-- ==== Sys2Proof/Machine/Ops.lean ====
section
/-!
DEFINITION. The shared operations: the message RAM (R9, R27, R68), the command life cycle (acceptance R36, completion
R37, failure R200), and the two resets (R38, R230, R231).
-/

namespace Sys2Proof.Machine

/-! ### The message RAM -/

/-- The canonical form: indexes strictly rising and below MSG_SIZE. An unlisted byte has no written value (what it
reads as is `Config.powerOnByte`), so no entry can equal it and equal contents are equal lists. -/
abbrev Memory.wf (size : Nat) (m : Memory) : Prop :=
  m.cells.Pairwise (fun a b => a.1 < b.1) ∧ ∀ c ∈ m.cells, c.1 < size

/-- The byte listed at an index. -/
def cellsRead? : List Host.Cell → Nat → Option Byte
  | [], _ => none
  | (k, b) :: rest, n => if k = n then some b else cellsRead? rest n

/-- What the host or a command has written to MSG[n] since power-on, if anything. -/
def Memory.read? (m : Memory) (n : Nat) : Option Byte := cellsRead? m.cells n

/-- MSG[n]: the byte last written, or the unconstrained byte it has held since power-on (R38, R68). -/
def Memory.byte (m : Memory) (n : Nat) : Byte := (m.read? n).getD (Config.powerOnByte m.powerOns n)

/-- The list with the byte at an index replaced or inserted in its place. -/
def cellsWrite : List Host.Cell → Nat → Byte → List Host.Cell
  | [], n, b => [(n, b)]
  | (k, c) :: rest, n, b =>
    if k < n then (k, c) :: cellsWrite rest n b
    else if k = n then (n, b) :: rest
    else (n, b) :: (k, c) :: rest

/-- MSG[n] <- b. -/
def Memory.write (m : Memory) (n : Nat) (b : Byte) : Memory := { m with cells := cellsWrite m.cells n b }

/-- MemRead(n, k): MSG[n..n+k) (R9). -/
def Memory.memRead (m : Memory) (n k : Nat) : List Byte := (List.range k).map fun j => m.byte (n + j)

/-- MemWrite(n, |bs|, bs) (R9). -/
def Memory.memWrite (m : Memory) (n : Nat) : List Byte → Memory
  | [] => m
  | b :: bs => (m.write n b).memWrite (n + 1) bs

/-- The message of SIGN_*, VERIFY and OPEN: MemRead(0, MSG_LEN) (R68, R170). -/
def State.message (s : State) : List Byte := s.msg.memRead 0 s.msgLen.toNat

/-- The check MSG_LEN ≤ MSG_SIZE (R170, R204). -/
def State.msgLenOk (s : State) : Bool := s.msgLen.toNat ≤ s.params.msgSize

/-! ### The command life cycle -/

/-- Acceptance (R36): CMD <- w, the flags, and the engine BUSY with w. -/
def State.accept (s : State) (w : Word) : State := { s.acceptFlags with cmd := w, engine := .busy w }

/-- Completion with an error code (R37): the flags, and the engine IDLE (so BUSY is 0). -/
def State.complete (s : State) (e : ErrCode) : State := { s.completeFlags e with engine := .idle }

/-- The completion step of R37 for the result of a command: its destination writes are applied only when it ends
OK; a failed command writes no destination (R200). -/
def finish (s : State) (r : Except ErrCode State) : Host.Outcome State Fault Refusal :=
  .next (match r with
    | .ok t => t.complete .ok
    | .error e => s.complete e)

/-! ### Reset -/

/-- Soft reset (R231): every state of R38 at its soft-reset value; MSG is unchanged. The events to come and the last
response, which are the model's own, stand. -/
def State.softReset (s : State) : State :=
  { State.resetWith s.params with msg := s.msg, events := s.events, response := s.response }

/-- Power-on reset (R230): every state at its power-on value, the message RAM "each byte an unconstrained value" (R38)
drawn afresh. The events to come stand; no access has been answered yet. -/
def State.powerOn (s : State) : State :=
  { State.resetWith s.params with msg := ⟨s.msg.powerOns + 1, []⟩, events := s.events }

end Sys2Proof.Machine
end

