-- ==== Sys2Proof/Machine/Bus.lean ====
section
/-!
DEFINITION. The host's side of the CORE: the bus, the address map and the registers (20_memory.md; R28 to R35), and
the host program notation of R89.
-/

namespace Sys2Proof.Machine

/-- The control and status registers (R28). -/
inductive Reg where
  | cmd
  | status
  | ctrl
  | msgLen
  | outLen
  | id
  | param
  deriving DecidableEq, Repr

/-- What a bus address names (R52). A message word is named by the index of its first byte. -/
inductive Target where
  | reg (r : Reg)
  | slotWord (i : SlotIx) (m : Fin 8)
  | msgWord (n : Nat)
  | unmapped
  deriving DecidableEq, Repr

/-- The register at word index k of the address space (R28). -/
def regAt : Nat → Option Reg
  | 0 => some .cmd
  | 1 => some .status
  | 2 => some .ctrl
  | 3 => some .msgLen
  | 4 => some .outLen
  | 5 => some .id
  | 6 => some .param
  | _ => none

/-- The address map of R52, with R53 and R55: the word a byte address lies in. -/
def targetOf (p : Params) (addr : Addr) : Target :=
  let n := addr.toNat
  match regAt (n / 4) with
  | some r => .reg r
  | none =>
    if h : 0x200 ≤ n ∧ n < 0x400 then
      .slotWord ⟨(n - 0x200) / 32, by omega⟩ ⟨(n - 0x200) % 32 / 4, by omega⟩
    else if 0x1000 ≤ n ∧ n < 0x1000 + p.msgSize then .msgWord ((n - 0x1000) / 4 * 4)
    else .unmapped

/-- The access form the bus supports (R56): A[1:0] = 0 and all four byte strobes. -/
def BusAccess.supported (a : BusAccess) : Bool := a.addr.toNat % 4 == 0 && a.strobes == 0xF

/-- A register as the host reads it (R28). -/
def State.readReg (s : State) : Reg → Word
  | .cmd => s.cmd
  | .status => s.statusWord
  | .ctrl => s.ctrlWord
  | .msgLen => s.msgLen
  | .outLen => s.outLen
  | .id => idWord
  | .param => s.paramWord

/-- LE of the four bytes of a message word (R54, R55). -/
def Memory.readWord (m : Memory) (n : Nat) : Word :=
  m.byte (n + 3) ++ m.byte (n + 2) ++ m.byte (n + 1) ++ m.byte n

/-- A message word stored byte by byte, v[8k+7:8k] into byte k (R54, R55). -/
def Memory.writeWord (m : Memory) (n : Nat) (v : Word) : Memory := m.memWrite n (bytesOf 4 v)

/-- The response to a read (R51): the ERROR of an unmapped address carries data 0 (R58); a misaligned or partial read
(R56) and a read locked out while BUSY (R60) get an ERROR for which the spec states no data. -/
def State.busRead (s : State) (a : BusAccess) : BusResponse :=
  match targetOf s.params a.addr with
  | .unmapped => .error (some 0)
  | .reg r => if a.supported then .okay (some (s.readReg r)) else .error none
  | .slotWord i m =>
    if a.supported && !s.busy then .okay (some (slotWord (s.slot i) m.val)) else .error none
  | .msgWord n => if a.supported && !s.busy then .okay (some (s.msg.readWord n)) else .error none

/-- A write to CTRL (R33): SRST = 1 is the soft reset and nothing else; otherwise CLR = 1 clears, and IE is stored. -/
def State.writeCtrl (s : State) (v : Word) : State :=
  if v.getLsbD 0 then s.softReset
  else { (if v.getLsbD 1 then s.clearFlags else s) with ie := v.getLsbD 2 }

/-- A write to CMD (R29): accepted when IDLE; ignored while BUSY, setting OVF. -/
def State.writeCmd (s : State) (v : Word) : State := if s.busy then s.setOvf else s.accept v

/-- A supported write to a register, `none` where it gets a bus ERROR: MSG_LEN while BUSY (R60). Writes to read-only
registers are ignored with an OKAY (R28, R59). -/
def State.writeReg (s : State) (r : Reg) (v : Word) : Option State :=
  match r with
  | .cmd => some (s.writeCmd v)
  | .ctrl => some (s.writeCtrl v)
  | .msgLen => if s.busy then none else some { s with msgLen := v }
  | .status => some s
  | .outLen => some s
  | .id => some s
  | .param => some s

/-- The effect of a write, `none` where it gets a bus ERROR and has no effect (R56, R58, R60). -/
def State.busWrite? (s : State) (a : BusAccess) (v : Word) : Option State :=
  match targetOf s.params a.addr with
  | .unmapped => none
  | .reg r => if a.supported then s.writeReg r v else none
  | .slotWord i m =>
    if a.supported && !s.busy then some (s.setSlot i (setSlotWord (s.slot i) m.val v)) else none
  | .msgWord n => if a.supported && !s.busy then some { s with msg := s.msg.writeWord n v } else none

/-- The response recorded (R51). -/
def State.respond (s : State) (r : BusResponse) : State := { s with response := some r }

/-- One bus access of the host, a single step (R57). A read has no side effect (R59). -/
def State.busAccess (s : State) (a : BusAccess) : State :=
  match a.op with
  | .read => s.respond (s.busRead a)
  | .write v =>
    match s.busWrite? a v with
    | some t => t.respond (.okay none)
    | none => s.respond (.error none)

/-! ### Host program notation (R89) -/

/-- `WR addr, v`: a 32-bit bus write. -/
def wr (addr : Addr) (v : Word) : Event := .bus ⟨addr, 0xF, .write v⟩

/-- `RD addr`: a 32-bit bus read. -/
def rd (addr : Addr) : Event := .bus ⟨addr, 0xF, .read⟩

/-- `WAIT` when the completion falls before its first read: that read of STATUS finds BUSY = 0. -/
def waitDone : List Event := [.engine, rd 0x004]

/-- `ISSUE <command>`: the CMD write, then `WAIT`. -/
def issue (i : Instr) : List Event := wr 0x000 (encode i) :: waitDone

end Sys2Proof.Machine
end

