-- ==== Sys2Proof/Machine/FieldArith.lean ====
section
/-!
DEFINITION. Arithmetic modulo the field prime p and the group order ℓ (R11, R12, R13). Every value is a natural number
in the spec's own notation; no internal representation is visible (R12).
-/

namespace Sys2Proof.Machine

/-- p = 2^255 - 19 (R11). -/
def fieldPrime : Nat := 0x7fffffffffffffffffffffffffffffffffffffffffffffffffffffffffffffed

/-- ℓ (R13). -/
def groupOrder : Nat := 0x1000000000000000000000000000000014def9dea2f79cd65812631a5cf5d3ed

/-- Addition of field elements (R11). -/
def fpAdd (x y : Nat) : Nat := (x + y) % fieldPrime

/-- Negation: (p - x) mod p (R106). -/
def fpNeg (x : Nat) : Nat := (fieldPrime - x % fieldPrime) % fieldPrime

/-- Subtraction: the non-negative residue of x - y (R7, R102). -/
def fpSub (x y : Nat) : Nat := (x + (fieldPrime - y % fieldPrime)) % fieldPrime

/-- Multiplication of field elements (R11, R103). -/
def fpMul (x y : Nat) : Nat := (x * y) % fieldPrime

/-- x^e mod p for e < 256^fuel, one base-256 digit of e at a time. -/
def fpPowDigits (x : Nat) : Nat → Nat → Nat
  | 0, _ => 1
  | fuel + 1, e => (fpPowDigits x fuel (e / 256)) ^ 256 * x ^ (e % 256) % fieldPrime

/-- x^e mod p, for the exponents of this model, which are all below 2^256. -/
def fpPow (x e : Nat) : Nat := fpPowDigits (x % fieldPrime) 32 e

/-- The inverse as the Fermat power x^(p-2) mod p (R105); it maps 0 to 0. -/
def fpInv (x : Nat) : Nat := fpPow x (fieldPrime - 2)

/-- Field decode FD(w) = (LE(w) mod 2^255) mod p (R12). -/
def fd (w : Slot) : Nat := w.toNat % 2 ^ 255 % fieldPrime

/-- Field encode FE(v) = LEB_32(v) (R12). -/
def fe (v : Nat) : Slot := leb32 v

/-- muladd(a, b, c) = a·b + c mod ℓ (glossary of 00_scope.md; R132). -/
def mulAddMod (a b c : Nat) : Nat := (a * b + c) % groupOrder

end Sys2Proof.Machine
end

