-- ==== Sys2Proof/Machine/FieldCmds.lean ====
section
/-!
DEFINITION. The field commands (40_field.md). Each reads its slots by FD and writes FE of its result (R100).
-/

namespace Sys2Proof.Machine

/-- A slot source read as a field element (R100). -/
def State.fieldOf (s : State) (i : SlotIx) : Nat := fd (s.slot i)

/-- FADD (R101). -/
def execFadd (d a b : SlotIx) (s : State) : Host.Outcome State Fault Refusal :=
  finish s (.ok (s.setSlot d (fe (fpAdd (s.fieldOf a) (s.fieldOf b)))))

/-- FSUB (R102). -/
def execFsub (d a b : SlotIx) (s : State) : Host.Outcome State Fault Refusal :=
  finish s (.ok (s.setSlot d (fe (fpSub (s.fieldOf a) (s.fieldOf b)))))

/-- FMUL (R103). -/
def execFmul (d a b : SlotIx) (s : State) : Host.Outcome State Fault Refusal :=
  finish s (.ok (s.setSlot d (fe (fpMul (s.fieldOf a) (s.fieldOf b)))))

/-- FSQ (R104). -/
def execFsq (d a : SlotIx) (s : State) : Host.Outcome State Fault Refusal :=
  finish s (.ok (s.setSlot d (fe (fpMul (s.fieldOf a) (s.fieldOf a)))))

/-- FINV (R105): the Fermat power, and Z0 set when the input is 0. -/
def execFinv (d a : SlotIx) (s : State) : Host.Outcome State Fault Refusal :=
  finish s (.ok ((s.setSlot d (fe (fpInv (s.fieldOf a)))).setZ0If (s.fieldOf a == 0)))

/-- FNEG (R106). -/
def execFneg (d a : SlotIx) (s : State) : Host.Outcome State Fault Refusal :=
  finish s (.ok (s.setSlot d (fe (fpNeg (s.fieldOf a)))))

/-- FCSWAP (R107): the condition is bit 0 of D[b]; both slots are written in both cases. -/
def execFcswap (d a b : SlotIx) (s : State) : Host.Outcome State Fault Refusal :=
  let x := s.fieldOf d
  let y := s.fieldOf a
  finish s (.ok (if (s.slot b).getLsbD 0 then (s.setSlot d (fe y)).setSlot a (fe x)
    else (s.setSlot d (fe x)).setSlot a (fe y)))

/-- FCANON (R108). -/
def execFcanon (d a : SlotIx) (s : State) : Host.Outcome State Fault Refusal :=
  finish s (.ok (s.setSlot d (fe (s.fieldOf a))))

end Sys2Proof.Machine
end

