-- ==== Sys2Proof/Machine/Curve.lean ====
section
/-!
DEFINITION. The curve, its group law, scalar multiplication, and the point encoding (R14 to R19), on affine points.
-/

namespace Sys2Proof.Machine

/-- The curve constant d (R14). -/
def curveD : Nat := 0x52036cee2b6ffe738cc740797779e89800700a4d4141d8ab75eb4dca135978a3

/-- The neutral element O = (0, 1) (R16). -/
def Point.zero : Point := ⟨0, 1⟩

/-- The base point B (R15). -/
def basePoint : Point :=
  ⟨15112221349535400772501151409588531511454012693041857206046113283949847762202,
   46316835694926478169428394003475163141307993866256225615783033603165251855960⟩

/-- The addition law of R16. -/
def Point.add (p q : Point) : Point :=
  let t := curveD * p.x * q.x * p.y * q.y % fieldPrime
  ⟨fpMul (p.x * q.y + p.y * q.x) (fpInv (fpAdd 1 t)), fpMul (p.y * q.y + p.x * q.x) (fpInv (fpSub 1 t))⟩

/-- The negation of (x, y) is (-x mod p, y) (R16). -/
def Point.neg (q : Point) : Point := ⟨fpNeg q.x, q.y⟩

/-- [k]q for k < 2^fuel, one bit of k at a time from the top. -/
def Point.smulBits (q : Point) : Nat → Nat → Point
  | 0, _ => Point.zero
  | fuel + 1, k =>
    let h := Point.smulBits q fuel (k / 2)
    if k % 2 = 1 then (h.add h).add q else h.add h

/-- [k]q (R17). The spec's recursion adds q k times; this doubles and adds, "means to compute [k]Q" that are
"not part of its value". DEDUCED, assumption log 5. -/
def Point.smul (k : Nat) (q : Point) : Point := Point.smulBits q (k.log2 + 1) k

/-- sign(x) (R18). -/
def signOf (x : Nat) : Nat := x % 2

/-- PE((x, y)) = LEB_32(y + 2^255·sign(x)) (R19). -/
def pointEncode (q : Point) : Slot := leb32 (q.y + 2 ^ 255 * signOf q.x)

/-- A square root of -1 modulo p: 2^((p-1)/4). -/
def sqrtMinusOne : Nat := fpPow 2 ((fieldPrime - 1) / 4)

/-- A root x of x^2·v = u modulo p if there is one (R19). The two candidates are (u/v)^((p+3)/8) and that times a
square root of -1; R19 specifies the root by its existence. DEDUCED, assumption log 6. -/
def sqrtRatio (u v : Nat) : Option Nat :=
  let r := fpPow (fpMul u (fpInv v)) ((fieldPrime + 3) / 8)
  if fpMul (fpMul r r) v = u then some r
  else
    let r' := fpMul r sqrtMinusOne
    if fpMul (fpMul r' r') v = u then some r' else none

/-- A root x of x^2·v = u for the y of an encoding (R19), if there is one. -/
def decodeRoot (y : Nat) : Option Nat := sqrtRatio (fpSub (y * y) 1) (fpAdd (curveD * (y * y)) 1)

/-- The point with the given y and sign bit s, from a root or the lack of one (R19). -/
def pointOfRoot (s y : Nat) : Option Nat → Except ErrCode Point
  | none => .error .notOnCurve
  | some r =>
    if r = 0 ∧ s = 1 then .error .negZero
    else if signOf r = s then .ok ⟨r, y⟩ else .ok ⟨fpNeg r, y⟩

/-- Point decode PD(w) (R19): a point, NOT_ON_CURVE or NEG_ZERO. -/
def pointDecode (w : Slot) : Except ErrCode Point := pointOfRoot (w.toNat / 2 ^ 255) (fd w) (decodeRoot (fd w))

end Sys2Proof.Machine
end

