-- ==== Sys2Proof/Machine/ScalarCmds.lean ====
section
/-!
DEFINITION. The scalar commands (41_scalar.md). Sources are read as LE of all their bytes, nothing masked (R130).
-/

namespace Sys2Proof.Machine

/-- A 32-byte slot source as a scalar: LE(D[i]) (R130, R149). -/
def State.scalarOf (s : State) (i : SlotIx) : Nat := (s.slot i).toNat

/-- SRED (R131). -/
def execSred (d : SlotIx) (a : PairIx) (s : State) : Host.Outcome State Fault Refusal :=
  finish s (.ok (s.setSlot d (leb32 ((s.pair a).toNat % groupOrder))))

/-- SMULADD (R132). -/
def execSmuladd (d a b c : SlotIx) (s : State) : Host.Outcome State Fault Refusal :=
  finish s (.ok (s.setSlot d (leb32 (mulAddMod (s.scalarOf a) (s.scalarOf b) (s.scalarOf c)))))

end Sys2Proof.Machine
end

