-- ==== Sys2Proof/Machine/PointCmds.lean ====
section
/-!
DEFINITION. The point commands (42_point.md). UNINIT is checked before RANGE (R209).
-/

namespace Sys2Proof.Machine

/-- The scalar range check of the multipliers: RANGE when k ≥ 2^255 (R149). -/
def checkRange (k : Nat) : Except ErrCode Unit := if 2 ^ 255 ≤ k then .error .range else .ok ()

/-- PDEC (R141). -/
def execPdec (d : PointIx) (a : SlotIx) (s : State) : Host.Outcome State Fault Refusal :=
  finish s (do
    let q ← pointDecode (s.slot a)
    return s.setPoint d q)

/-- PDECN (R143): the checks are made on the encoding as given, then the point is negated. -/
def execPdecn (d : PointIx) (a : SlotIx) (s : State) : Host.Outcome State Fault Refusal :=
  finish s (do
    let q ← pointDecode (s.slot a)
    return s.setPoint d q.neg)

/-- PENC (R142). -/
def execPenc (d : SlotIx) (a : PointIx) (s : State) : Host.Outcome State Fault Refusal :=
  finish s (do
    let q ← s.readPoint a
    return s.setSlot d (pointEncode q))

/-- PADD (R144). -/
def execPadd (d a b : PointIx) (s : State) : Host.Outcome State Fault Refusal :=
  finish s (do
    let q ← s.readPoint a
    let r ← s.readPoint b
    return s.setPoint d (q.add r))

/-- PDBL (R145). -/
def execPdbl (d a : PointIx) (s : State) : Host.Outcome State Fault Refusal :=
  finish s (do
    let q ← s.readPoint a
    return s.setPoint d (q.add q))

/-- PNEG (R147). -/
def execPneg (d a : PointIx) (s : State) : Host.Outcome State Fault Refusal :=
  finish s (do
    let q ← s.readPoint a
    return s.setPoint d q.neg)

/-- PSMB (R146). -/
def execPsmb (d : PointIx) (a : SlotIx) (s : State) : Host.Outcome State Fault Refusal :=
  finish s (do
    checkRange (s.scalarOf a)
    return s.setPoint d (Point.smul (s.scalarOf a) basePoint))

/-- PDSM (R148): [h]P[b] + [s]B, h in D[a] and s in D[c]; h is checked before s (R209). -/
def execPdsm (d : PointIx) (a : SlotIx) (b : PointIx) (c : SlotIx) (s : State) : Host.Outcome State Fault Refusal :=
  finish s (do
    let q ← s.readPoint b
    checkRange (s.scalarOf a)
    checkRange (s.scalarOf c)
    return s.setPoint d ((Point.smul (s.scalarOf a) q).add (Point.smul (s.scalarOf c) basePoint)))

end Sys2Proof.Machine
end

