-- ==== Sys2Proof/Machine/SignatureCmds.lean ====
section
/-!
DEFINITION. The signature engine (43_signature.md): the common functions of R171 to R173 and the six commands.
-/

namespace Sys2Proof.Machine

/-! ### Common functions -/

/-- The expanded key of a seed, h = SHA512(s) (R171). -/
def expandSeed (seed : Slot) : Bytes64 := Config.sha512 (slotBytes seed)

/-- The secret scalar a(h) = LE(clamp(h[0..32))) (R171). -/
def secretScalar (h : Bytes64) : Nat := (clamp (firstHalf h)).toNat

/-- The nonce prefix h[32..64) (R171). -/
def noncePrefix (h : Bytes64) : Slot := secondHalf h

/-- The public key pub(h) = PE([a(h)]B) (R171). -/
def publicKey (h : Bytes64) : Slot := pointEncode (Point.smul (secretScalar h) basePoint)

/-- A SHA-512 digest of the given string as a scalar: LE(SHA512(bs)) mod ℓ (R172, R173). -/
def hashScalar (bs : List Byte) : Nat := (Config.sha512 bs).toNat % groupOrder

/-- SignCore(h, A, M) (R172). -/
def signCore (h : Bytes64) (A : Slot) (M : List Byte) : Bytes64 :=
  let r := hashScalar (slotBytes (noncePrefix h) ++ M)
  let R := pointEncode (Point.smul r basePoint)
  let k := hashScalar (slotBytes R ++ slotBytes A ++ M)
  join R (leb32 (mulAddMod k (secretScalar h) r))

/-- The S check of VERIFY and OPEN (R181): the top 3 bits of byte 63 clear, and S < ℓ when STRICT_S. -/
def sCheck (strictS : Bool) (S : Slot) : Bool :=
  (byteAt S 31 &&& 0xE0 == 0) && (!strictS || S.toNat < groupOrder)

/-- The last three lines of VerifyCore: [k](-Q) + [LE(S)]B encodes to R (R173). -/
def verifyEquation (M : List Byte) (sig : Bytes64) (A : Slot) (Q : Point) : Bool :=
  let k := hashScalar (slotBytes (firstHalf sig) ++ slotBytes A ++ M)
  pointEncode ((Point.smul k Q.neg).add (Point.smul (secondHalf sig).toNat basePoint)) == firstHalf sig

/-- VerifyCore(M, sig, A) (R173): the S check, the decoding of A, and the equation. -/
def verifyCore (strictS : Bool) (M : List Byte) (sig : Bytes64) (A : Slot) : Bool :=
  sCheck strictS (secondHalf sig) &&
    match pointDecode A with
    | .error _ => false
    | .ok Q => verifyEquation M sig A Q

/-! ### Commands -/

/-- KEYPAIR (R175): the digest unclamped to DP[b], the public key to D[d]; the overlap of R84 (6) is ILLEGAL. -/
def execKeypair (d a : SlotIx) (b : PairIx) (s : State) : Host.Outcome State Fault Refusal :=
  let h := expandSeed (s.slot a)
  finish s (if keypairOverlap d b then .error .illegal else .ok ((s.setPair b h).setSlot d (publicKey h)))

/-- A signing command's result: LENGTH when MSG_LEN > MSG_SIZE (R170), else the signature in DP[d]. -/
def signTo (s : State) (d : PairIx) (h : Bytes64) (A : Slot) : Except ErrCode State :=
  if s.msgLenOk then .ok (s.setPair d (signCore h A s.message)) else .error .length

/-- SIGN_SEED (R176). -/
def execSignSeed (d : PairIx) (a : SlotIx) (s : State) : Host.Outcome State Fault Refusal :=
  let h := expandSeed (s.slot a)
  finish s (signTo s d h (publicKey h))

/-- SIGN_EXP (R177). -/
def execSignExp (d a : PairIx) (s : State) : Host.Outcome State Fault Refusal :=
  finish s (signTo s d (s.pair a) (publicKey (s.pair a)))

/-- SIGN_KP (R178): the public key D[b] is used as given. -/
def execSignKp (d : PairIx) (a b : SlotIx) (s : State) : Host.Outcome State Fault Refusal :=
  finish s (signTo s d (expandSeed (s.slot a)) (s.slot b))

/-- VERIFY (R180). -/
def execVerify (a : PairIx) (b : SlotIx) (s : State) : Host.Outcome State Fault Refusal :=
  finish s (if s.msgLenOk then .ok (s.setValid (verifyCore s.params.strictS s.message (s.pair a) (s.slot b)))
    else .error .length)

/-- OPEN's verification of the signed message MSG[0..n) (R186). -/
def openVerifies (s : State) (b : SlotIx) : Bool :=
  verifyCore s.params.strictS (s.msg.memRead 64 (s.msgLen.toNat - 64)) (bytes64 (s.msg.memRead 0 64)) (s.slot b)

/-- OPEN's effect when the length is legal (R186): VALID and OUT_LEN, and on failure MSG[0..n) zeroed. -/
def openResult (s : State) (b : SlotIx) : State :=
  let n := s.msgLen.toNat
  if openVerifies s b then { s.setValid true with outLen := BitVec.ofNat 32 (n - 64) }
  else { s.setValid false with outLen := 0, msg := s.msg.memWrite 0 (List.replicate n 0) }

/-- OPEN (R186). -/
def execOpen (b : SlotIx) (s : State) : Host.Outcome State Fault Refusal :=
  finish s (if s.msgLenOk && 64 ≤ s.msgLen.toNat then .ok (openResult s b) else .error .length)

end Sys2Proof.Machine
end

