-- ==== Sys2Proof/Machine/Dispatch.lean ====
section
/-!
DEFINITION. Execute of R85: the meaning of each command. One arm per constructor.
-/

namespace Sys2Proof.Machine

def exec (i : Instr) (s : State) : Host.Outcome State Fault Refusal :=
  match i with
  -- field (40_field.md)
  | .fadd d a b => Sys2Proof.Machine.execFadd d a b s
  | .fsub d a b => Sys2Proof.Machine.execFsub d a b s
  | .fmul d a b => Sys2Proof.Machine.execFmul d a b s
  | .fsq d a => Sys2Proof.Machine.execFsq d a s
  | .finv d a => Sys2Proof.Machine.execFinv d a s
  | .fneg d a => Sys2Proof.Machine.execFneg d a s
  | .fcswap d a b => Sys2Proof.Machine.execFcswap d a b s
  | .fcanon d a => Sys2Proof.Machine.execFcanon d a s
  -- scalar (41_scalar.md)
  | .sred d a => Sys2Proof.Machine.execSred d a s
  | .smuladd d a b c => Sys2Proof.Machine.execSmuladd d a b c s
  -- group (42_point.md)
  | .pdec d a => Sys2Proof.Machine.execPdec d a s
  | .pdecn d a => Sys2Proof.Machine.execPdecn d a s
  | .penc d a => Sys2Proof.Machine.execPenc d a s
  | .padd d a b => Sys2Proof.Machine.execPadd d a b s
  | .pdbl d a => Sys2Proof.Machine.execPdbl d a s
  | .pneg d a => Sys2Proof.Machine.execPneg d a s
  | .psmb d a => Sys2Proof.Machine.execPsmb d a s
  | .pdsm d a b c => Sys2Proof.Machine.execPdsm d a b c s
  -- signature (43_signature.md)
  | .keypair d a b => Sys2Proof.Machine.execKeypair d a b s
  | .signSeed d a => Sys2Proof.Machine.execSignSeed d a s
  | .signExp d a => Sys2Proof.Machine.execSignExp d a s
  | .signKp d a b => Sys2Proof.Machine.execSignKp d a b s
  | .verify a b => Sys2Proof.Machine.execVerify a b s
  | .openMsg b => Sys2Proof.Machine.execOpen b s

end Sys2Proof.Machine
end

