-- ==== Sys2Proof/Machine/Step.lean ====
section
/-!
DEFINITION. One step of the machine (R50, R63): the next event of the total order, or, when no event is left, the
engine's completion if it is BUSY.
-/

namespace Sys2Proof.Machine

/-- The engine's only step (R50 (2)): from BUSY(w), the completion of Execute(w) (R37, R85), an illegal word ending with
ERR = ILLEGAL (R202). An IDLE engine does nothing (R216). -/
def engineStep (s : State) : Host.Outcome State Fault Refusal :=
  match s.engine with
  | .idle => .next s
  | .busy w =>
    match decode w with
    | .ok i => exec i s
    | .error _ => finish s (.error .illegal)

/-- The state with its first event taken. -/
def State.withEvents (s : State) (es : List Event) : State := { s with events := es }

/-- One step. With no event left a BUSY engine completes: the fairness of R245. -/
def step (s : State) : Host.Outcome State Fault Refusal :=
  match s.events with
  | [] => engineStep s
  | .engine :: es => engineStep (s.withEvents es)
  | .bus a :: es => .next ((s.withEvents es).busAccess a)
  | .powerOn :: es => .next (s.withEvents es).powerOn

/-- The state in which the very next step runs the command word: the word accepted (R36), and the engine's step next
in the order of events. Assumption log 7. -/
def State.withFetchWord (s : State) (nbits w : Nat) : State :=
  (s.accept (BitVec.ofNat 32 (w % 2 ^ nbits))).withEvents (.engine :: s.events)

end Sys2Proof.Machine
end

