-- ==== Sys2Proof/Machine/Assembler.lean ====
section
/-!
DEFINITION. The assembly syntax (R87) and the pseudo-instructions (R88). No part of the machine: the host's notation.
-/

namespace Sys2Proof.Machine

/-! ### Reading one line (R87) -/

/-- A decimal number: at least one digit, nothing else. -/
def asmNat : List Char → Option Nat
  | [] => none
  | cs => cs.foldl (fun acc c => match acc with
      | some n => if '0' ≤ c && c ≤ '9' then some (10 * n + (c.toNat - '0'.toNat)) else none
      | none => none) (some 0)

/-- `D<i>`. -/
def asmSlot : List Char → Option SlotIx
  | 'D' :: cs => do
    let n ← asmNat cs
    if h : n < 16 then some ⟨n, h⟩ else none
  | _ => none

/-- `DP<k>`, k even. -/
def asmPair : List Char → Option PairIx
  | 'D' :: 'P' :: cs => do
    let n ← asmNat cs
    if h : n / 2 < 8 ∧ n % 2 = 0 then some ⟨n / 2, h.1⟩ else none
  | _ => none

/-- `P<j>`. -/
def asmPoint : List Char → Option PointIx
  | 'P' :: cs => do
    let n ← asmNat cs
    if h : n < 8 then some ⟨n, h⟩ else none
  | _ => none

/-- The line without its comment, which runs from `;` to the end. -/
def asmStripComment (cs : List Char) : List Char := cs.takeWhile (· != ';')

/-- Leading and trailing blanks removed. -/
def asmTrim (cs : List Char) : List Char := ((cs.dropWhile (· == ' ')).reverse.dropWhile (· == ' ')).reverse

/-- The operands of a line: its parts between commas. -/
def asmOperands : List Char → List (List Char)
  | [] => [[]]
  | ',' :: cs => [] :: asmOperands cs
  | c :: cs => match asmOperands cs with
    | [] => [[c]]
    | w :: ws => (c :: w) :: ws

/-- The command of a mnemonic (in capitals) and its operands in the order d, a, b, c with kind Z omitted. -/
def asmCommand (mn : String) (ops : List (List Char)) : Option Instr :=
  match mn, ops with
  | "FADD", [d, a, b] => return .fadd (← asmSlot d) (← asmSlot a) (← asmSlot b)
  | "FSUB", [d, a, b] => return .fsub (← asmSlot d) (← asmSlot a) (← asmSlot b)
  | "FMUL", [d, a, b] => return .fmul (← asmSlot d) (← asmSlot a) (← asmSlot b)
  | "FSQ", [d, a] => return .fsq (← asmSlot d) (← asmSlot a)
  | "FINV", [d, a] => return .finv (← asmSlot d) (← asmSlot a)
  | "FNEG", [d, a] => return .fneg (← asmSlot d) (← asmSlot a)
  | "FCSWAP", [d, a, b] => return .fcswap (← asmSlot d) (← asmSlot a) (← asmSlot b)
  | "FCANON", [d, a] => return .fcanon (← asmSlot d) (← asmSlot a)
  | "SRED", [d, a] => return .sred (← asmSlot d) (← asmPair a)
  | "SMULADD", [d, a, b, c] => return .smuladd (← asmSlot d) (← asmSlot a) (← asmSlot b) (← asmSlot c)
  | "PDEC", [d, a] => return .pdec (← asmPoint d) (← asmSlot a)
  | "PDECN", [d, a] => return .pdecn (← asmPoint d) (← asmSlot a)
  | "PENC", [d, a] => return .penc (← asmSlot d) (← asmPoint a)
  | "PADD", [d, a, b] => return .padd (← asmPoint d) (← asmPoint a) (← asmPoint b)
  | "PDBL", [d, a] => return .pdbl (← asmPoint d) (← asmPoint a)
  | "PNEG", [d, a] => return .pneg (← asmPoint d) (← asmPoint a)
  | "PSMB", [d, a] => return .psmb (← asmPoint d) (← asmSlot a)
  | "PDSM", [d, a, b, c] => return .pdsm (← asmPoint d) (← asmSlot a) (← asmPoint b) (← asmSlot c)
  | "KEYPAIR", [d, a, b] => return .keypair (← asmSlot d) (← asmSlot a) (← asmPair b)
  | "SIGN_SEED", [d, a] => return .signSeed (← asmPair d) (← asmSlot a)
  | "SIGN_EXP", [d, a] => return .signExp (← asmPair d) (← asmPair a)
  | "SIGN_KP", [d, a, b] => return .signKp (← asmPair d) (← asmSlot a) (← asmSlot b)
  | "VERIFY", [a, b] => return .verify (← asmPair a) (← asmSlot b)
  | "OPEN", [b] => return .openMsg (← asmSlot b)
  | _, _ => none

/-- One line of assembly: `MNEMONIC operand, operand, ...`, the mnemonic in either case. -/
def assemble (line : String) : Option Instr :=
  let cs := asmTrim (asmStripComment line.toList)
  let mn := cs.takeWhile (· != ' ')
  let rest := cs.dropWhile (· != ' ')
  asmCommand (String.ofList (mn.map Char.toUpper)) ((asmOperands rest).map asmTrim)

/-! ### Pseudo-instructions (R88) -/

/-- The pseudo-instructions of R88. -/
inductive Pseudo where
  | fdbl (d a : SlotIx)
  | fmov (d a : SlotIx)
  | pmov (d a : PointIx)
  | psub (d a b : PointIx)
  | pldb (d : PointIx) (s : SlotIx)
  | pldo (d : PointIx) (s : SlotIx)
  deriving DecidableEq, Repr

/-- The commands a pseudo-instruction stands for, issued one after another. -/
def Pseudo.expand : Pseudo → List Instr
  | .fdbl d a => [.fadd d a a]
  | .fmov d a => [.fcanon d a]
  | .pmov d a => [.pneg d a, .pneg d d]
  | .psub d a b => [.pneg d b, .padd d a d]
  | .pldb d s => [.psmb d s]
  | .pldo d s => [.psmb d s]

/-- The condition R88 sets on the operands of a pseudo-instruction (PSUB: d ≠ a). -/
def Pseudo.operandsOk : Pseudo → Bool
  | .fdbl _ _ => true
  | .fmov _ _ => true
  | .pmov _ _ => true
  | .psub d a _ => d != a
  | .pldb _ _ => true
  | .pldo _ _ => true

end Sys2Proof.Machine
end

