-- ==== Sys2Proof/Safety.lean ====
section
/-!
DEFINITION. What the claims about the machine are stated in: the byte-string value of R8 written as a sum, the curve
of R14, the recursion of R17, the frame of a command, and the invariants of the state.
-/

namespace Sys2Proof.Machine

/-! ### Values as the spec writes them -/

/-- LE(D) = Σ_{j<32} bs[j]·256^j over the bytes of a slot (R8). -/
def leValue (w : Slot) : Nat := ∑ j ∈ Finset.range 32, (byteAt w j).toNat * 256 ^ j

/-- FD of a slot by R12: (LE(w) mod 2^255) mod p, LE being the sum over the bytes. -/
def fieldValue (w : Slot) : Nat := leValue w % 2 ^ 255 % (2 ^ 255 - 19)

/-- A slot holds the field element v in its canonical encoding FE(v): LE is v, v < p and bit 255 is 0 (R12, R100). -/
def Encodes (w : Slot) (v : Nat) : Prop := leValue w = v ∧ v < 2 ^ 255 - 19 ∧ w.getLsbD 255 = false

/-- (x, y) is a point of E: two field elements with -x^2 + y^2 = 1 + d·x^2·y^2 modulo p (R11, R14). -/
abbrev OnCurve (q : Point) : Prop :=
  q.x < fieldPrime ∧ q.y < fieldPrime ∧
    (-(q.x : Int) ^ 2 + (q.y : Int) ^ 2 - (1 + (curveD : Int) * (q.x : Int) ^ 2 * (q.y : Int) ^ 2)) % (fieldPrime : Int) = 0

/-- [k]Q by the recursion of R17: [0]Q = O, [k+1]Q = [k]Q + Q. -/
def Point.multiple (q : Point) : Nat → Point
  | 0 => Point.zero
  | k + 1 => (q.multiple k).add q

/-- The two Edwards sums of R16 with the denominators multiplied out: r is P1 + P2. -/
def IsSum (p q r : Point) : Prop :=
  let t : Int := curveD * p.x * q.x * p.y * q.y
  r.x < fieldPrime ∧ r.y < fieldPrime ∧
    ((r.x : Int) * (1 + t) - (p.x * q.y + p.y * q.x)) % (fieldPrime : Int) = 0 ∧
    ((r.y : Int) * (1 - t) - (p.y * q.y + p.x * q.x)) % (fieldPrime : Int) = 0

/-- x is a root of x^2·v = u (mod p) for the y of an encoding, u = y^2 - 1 and v = d·y^2 + 1 (R19). -/
def IsRootFor (w : Slot) (x : Nat) : Prop :=
  x < fieldPrime ∧
    ((x : Int) ^ 2 * ((curveD : Int) * (fieldValue w : Int) ^ 2 + 1) - ((fieldValue w : Int) ^ 2 - 1)) % (fieldPrime : Int) = 0

/-! ### Frames -/

/-- What no command ever writes: the parameters, CMD, OVF, IE, MSG_LEN, and the model's events and last response. -/
def State.ControlKept (s t : State) : Prop :=
  t.params = s.params ∧ t.cmd = s.cmd ∧ t.ovf = s.ovf ∧ t.ie = s.ie ∧ t.msgLen = s.msgLen ∧
    t.events = s.events ∧ t.response = s.response

/-- Every slot outside the list reads as before. -/
def State.SlotsKeptBut (s t : State) (written : List SlotIx) : Prop := ∀ i, i ∉ written → t.slot i = s.slot i

/-- Every point register outside the list, and its valid bit, reads as before. -/
def State.PointsKeptBut (s t : State) (written : List PointIx) : Prop := ∀ j, j ∉ written → t.point j = s.point j

/-- Every byte of the message RAM reads as before. -/
def State.MsgKept (s t : State) : Prop := ∀ n, t.msg.byte n = s.msg.byte n

/-- VALID, Z0 and OUT_LEN are as before. -/
def State.ResultsKept (s t : State) : Prop := t.valid = s.valid ∧ t.z0 = s.z0 ∧ t.outLen = s.outLen

/-- The life cycle's part of a completion with the given code: BUSY = 0, DONE = 1, ERR the code (R37). -/
def State.EndsWith (t : State) (e : ErrCode) : Prop := t.busy = false ∧ t.done = true ∧ t.err = e

/-- A command that completes with ERR = OK and writes nothing but the named slots and point registers. -/
def State.CompletesWriting (s t : State) (slots : List SlotIx) (points : List PointIx) : Prop :=
  t.EndsWith .ok ∧ s.ControlKept t ∧ s.SlotsKeptBut t slots ∧ s.PointsKeptBut t points ∧ s.MsgKept t ∧ s.ResultsKept t

/-- A failed command (R200): the state as it was, plus the life cycle's part with the code. -/
def State.FailsWith (s t : State) (e : ErrCode) : Prop :=
  t.EndsWith e ∧ s.ControlKept t ∧ s.SlotsKeptBut t [] ∧ s.PointsKeptBut t [] ∧ s.MsgKept t ∧ s.ResultsKept t

/-! ### Invariants -/

/-- The housekeeping invariant: legal parameters (R6), the message RAM in canonical form, a BUSY engine's word is CMD
with DONE, ERR and VALID clear (R29, R36), VALID only with ERR = OK (R30), and OUT_LEN at most MSG_SIZE - 64 (R186). -/
structure State.Inv (s : State) : Prop where
  params : s.params.Ok
  msg : s.msg.wf s.params.msgSize
  busy : ∀ w, s.engine = .busy w → s.cmd = w ∧ s.done = false ∧ s.err = .ok ∧ s.valid = false
  valid : s.valid = true → s.err = .ok
  outLen : s.outLen.toNat + 64 ≤ s.params.msgSize

/-- The invariant of R24: every valid point register holds a point of E. -/
def State.PointsOnCurve (s : State) : Prop := ∀ j q, s.point j = some q → OnCurve q

/-- The states k steps lead to, as the host's interface runs them. -/
def State.Reaches (s : State) (k : Nat) (t : State) : Prop := Host.Core.run Sys2Proof.core k s = .next t

/-! ### Events -/

/-- The event is a reset: the hardware reset input, or an aligned full-word write to CTRL with SRST = 1 (R230, R231). -/
def Event.resets : Event → Bool
  | .powerOn => true
  | .engine => false
  | .bus a =>
    match a.op with
    | .read => false
    | .write v => a.supported && a.addr == 0x008 && v.getLsbD 0

/-- The operands of every command: slots, point registers, MSG and MSG_LEN (R37: what no access can change while BUSY). -/
def State.OperandsKept (s t : State) : Prop :=
  t.slots = s.slots ∧ t.points = s.points ∧ t.msg = s.msg ∧ t.msgLen = s.msgLen ∧ t.params = s.params

/-- It is the engine's turn (R50, R63): the next event is the engine's step, or no event is left; `u` is the state it
moves from. -/
def State.EngineTurn (s u : State) : Prop :=
  (s.events = [] ∧ u = s) ∨ ∃ es, s.events = .engine :: es ∧ u = s.withEvents es

/-! ### Command words (R80, R81, R83, R84, R87) -/

/-- R87's formula w = op | d<<8 | a<<12 | b<<16 | c<<20, as a number. -/
def commandWord (op d a b c : Nat) : Nat := op ||| d <<< 8 ||| a <<< 12 ||| b <<< 16 ||| c <<< 20


/-- The operand kinds of R81. -/
inductive OperandKind where
  | S
  | SP
  | PR
  | Z
  deriving DecidableEq, Repr

/-- The columns op, d, a, b, c of R83. -/
def opKinds : List (Nat × OperandKind × OperandKind × OperandKind × OperandKind) :=
  [(0x01, .S, .S, .S, .Z), (0x02, .S, .S, .S, .Z), (0x03, .S, .S, .S, .Z), (0x04, .S, .S, .Z, .Z),
   (0x05, .S, .S, .Z, .Z), (0x06, .S, .S, .Z, .Z), (0x07, .S, .S, .S, .Z), (0x08, .S, .S, .Z, .Z)] ++
  [(0x10, .S, .SP, .Z, .Z), (0x11, .S, .S, .S, .S)] ++
  [(0x20, .PR, .S, .Z, .Z), (0x21, .PR, .S, .Z, .Z), (0x22, .S, .PR, .Z, .Z), (0x23, .PR, .PR, .PR, .Z),
   (0x24, .PR, .PR, .Z, .Z), (0x25, .PR, .PR, .Z, .Z), (0x26, .PR, .S, .Z, .Z), (0x27, .PR, .S, .PR, .S)] ++
  [(0x30, .S, .S, .SP, .Z), (0x31, .SP, .S, .Z, .Z), (0x32, .SP, .SP, .Z, .Z), (0x33, .SP, .S, .S, .Z),
   (0x34, .Z, .SP, .S, .Z), (0x35, .Z, .Z, .S, .Z)]

/-- What R81 asks of a field of each kind. -/
def OperandKind.Allows : OperandKind → BitVec 4 → Prop
  | .S, _ => True
  | .SP, f => f.toNat % 2 = 0
  | .PR, f => f.toNat ≤ 7
  | .Z, f => f = 0

/-- The word is illegal by one of the six conditions of R84. -/
def IllegalWord (w : Word) : Prop :=
  (∀ e ∈ opKinds, e.1 ≠ (opField w).toNat) ∨ rsvField w ≠ 0 ∨
  (∃ e ∈ opKinds, e.1 = (opField w).toNat ∧
    ¬ (e.2.1.Allows (dField w) ∧ e.2.2.1.Allows (aField w) ∧ e.2.2.2.1.Allows (bField w) ∧ e.2.2.2.2.Allows (cField w))) ∨
  ((opField w).toNat = 0x30 ∧
    ((dField w).toNat = (bField w).toNat ∨ (dField w).toNat = (bField w).toNat + 1))

/-! ### Reset values -/

/-- The values both columns of R38 give: registers, slots and flags 0, no point register valid, engine IDLE, IRQ 0,
PARAM's parameters as they are. The message RAM is not part of it. -/
def State.HasResetValues (t : State) (p : Params) : Prop :=
  t.params = p ∧ t.cmd = 0 ∧ t.statusWord = 0 ∧ t.ctrlWord = 0 ∧ t.msgLen = 0 ∧ t.outLen = 0 ∧
    (∀ i, t.slot i = 0) ∧ (∀ j, t.point j = none) ∧ t.engine = .idle ∧ t.irq = false

/-! ### The signature rules with R17's recursion -/

/-- ℓ as R13 writes it. -/
def orderL : Nat := 2 ^ 252 + 27742317777372353535851937790883648493

/-- pub(h) = PE([a(h)]B), a(h) = LE(clamp(h[0..32))) (R171). -/
def IsPublicKeyOf (A : Slot) (h : Bytes64) : Prop :=
  A = pointEncode (basePoint.multiple (leValue (clamp (firstHalf h))))

/-- LE(SHA512(bs)) mod ℓ (R172, R173). -/
def hashModL (bs : List Byte) : Nat := leNat (bytesOf 64 (Config.sha512 bs)) % orderL

/-- `sig` is SignCore(h, A, M) (R172). -/
def IsSignature (sig h : Bytes64) (A : Slot) (M : List Byte) : Prop :=
  let r := hashModL (slotBytes (secondHalf h) ++ M)
  firstHalf sig = pointEncode (basePoint.multiple r) ∧
    leValue (secondHalf sig) =
      (hashModL (slotBytes (firstHalf sig) ++ slotBytes A ++ M) * leValue (clamp (firstHalf h)) + r) % orderL

/-- VerifyCore(M, sig, A) is true (R173, R181). -/
def Verifies (strictS : Bool) (M : List Byte) (sig : Bytes64) (A : Slot) : Prop :=
  byteAt (secondHalf sig) 31 &&& 0xE0 = 0 ∧ (strictS = true → leValue (secondHalf sig) < orderL) ∧
    ∃ Q, pointDecode A = .ok Q ∧
      pointEncode ((Q.neg.multiple (hashModL (slotBytes (firstHalf sig) ++ slotBytes A ++ M))).add
        (basePoint.multiple (leValue (secondHalf sig)))) = firstHalf sig

/-! ### Sequences of commands (R88) -/

/-- Commands run one after another, each to its completion, stopping where one does not answer a next state. -/
def execList : List Instr → State → Host.Outcome State Fault Refusal
  | [], s => .next s
  | i :: is, s =>
    match exec i s with
    | .next t => execList is t
    | .fault r => .fault r
    | .refused r => .refused r

end Sys2Proof.Machine
end

