-- ==== Sys2Proof/Certificates/Slice0/Obligations.lean ====
section
/-!
DEFINITION. The statements for the provers, from the numbered rules of the spec, file by file.
-/

open Sys2Proof Sys2Proof.Machine

/-! ### Encoding (30_encoding.md) -/

/-- Decoding the word of a legal command gives the command back, for every operand value (R80, R81, R83, R87). -/
def Obligations.DecodeOfEncodeIsTheCommand : Prop :=
  ∀ i : Instr, i.wf = true → decode (encode i) = .ok i

/-- A word that decodes has that one meaning: it is the encoding of the command read from it, which is legal (R83). -/
def Obligations.EncodeOfDecodedWordIsTheWord : Prop :=
  ∀ (w : Word) (i : Instr), decode w = .ok i → i.wf = true ∧ encode i = w

/-- R83: a word stands for a command of a row exactly when (w & mask) = match and, for KEYPAIR, d ≠ b and d ≠ b + 1. -/
def Obligations.WordIsLegalExactlyWhenARowMatches : Prop :=
  ∀ (w : Word) (m : String),
    (∃ i, decode w = .ok i ∧ i.mnemonic = m) ↔
      ∃ r ∈ opRows, r.mnemonic = m ∧ w &&& r.mask = r.value ∧
        (m = "KEYPAIR" → (dField w).toNat ≠ (bField w).toNat ∧ (dField w).toNat ≠ (bField w).toNat + 1)

/-- R87's example words, and four of the programs of 95_test_vectors.md: one of each family. -/
def Obligations.SampleWordsDecodeAsPrinted : Prop :=
  decode 0x00010201 = .ok (.fadd 2 0 1) ∧ decode 0x00000410 = .ok (.sred 4 0) ∧
  decode 0x00615027 = .ok (.pdsm 0 5 1 6) ∧ decode 0x00020034 = .ok (.verify 0 2) ∧
  decode 0x00020035 = .ok (.openMsg 2) ∧ decode 0x00020130 = .ok (.keypair 1 0 1) ∧
  decode 0x00000431 = .ok (.signSeed 2 0) ∧ decode 0x00002632 = .ok (.signExp 3 1) ∧
  decode 0x00006505 = .ok (.finv 5 6)

/-- R80, R83, R87: the word of every command is op | d<<8 | a<<12 | b<<16 | c<<20 with its operands in the order of R87
and 0 for the omitted fields. DP<k> is written with its even index k, which the model's pair operand h names as 2h
(assumption log 19). -/
def Obligations.EncodingFollowsTheFormula : Prop :=
  (∀ d a b : SlotIx, (encode (.fadd d a b)).toNat = commandWord 0x01 d.val a.val b.val 0) ∧
  (∀ d a b : SlotIx, (encode (.fsub d a b)).toNat = commandWord 0x02 d.val a.val b.val 0) ∧
  (∀ d a b : SlotIx, (encode (.fmul d a b)).toNat = commandWord 0x03 d.val a.val b.val 0) ∧
  (∀ d a : SlotIx, (encode (.fsq d a)).toNat = commandWord 0x04 d.val a.val 0 0) ∧
  (∀ d a : SlotIx, (encode (.finv d a)).toNat = commandWord 0x05 d.val a.val 0 0) ∧
  (∀ d a : SlotIx, (encode (.fneg d a)).toNat = commandWord 0x06 d.val a.val 0 0) ∧
  (∀ d a b : SlotIx, (encode (.fcswap d a b)).toNat = commandWord 0x07 d.val a.val b.val 0) ∧
  (∀ d a : SlotIx, (encode (.fcanon d a)).toNat = commandWord 0x08 d.val a.val 0 0) ∧
  (∀ (d : SlotIx) (a : PairIx), (encode (.sred d a)).toNat = commandWord 0x10 d.val (2 * a.val) 0 0) ∧
  (∀ d a b c : SlotIx, (encode (.smuladd d a b c)).toNat = commandWord 0x11 d.val a.val b.val c.val) ∧
  (∀ (d : PointIx) (a : SlotIx), (encode (.pdec d a)).toNat = commandWord 0x20 d.val a.val 0 0) ∧
  (∀ (d : PointIx) (a : SlotIx), (encode (.pdecn d a)).toNat = commandWord 0x21 d.val a.val 0 0) ∧
  (∀ (d : SlotIx) (a : PointIx), (encode (.penc d a)).toNat = commandWord 0x22 d.val a.val 0 0) ∧
  (∀ d a b : PointIx, (encode (.padd d a b)).toNat = commandWord 0x23 d.val a.val b.val 0) ∧
  (∀ d a : PointIx, (encode (.pdbl d a)).toNat = commandWord 0x24 d.val a.val 0 0) ∧
  (∀ d a : PointIx, (encode (.pneg d a)).toNat = commandWord 0x25 d.val a.val 0 0) ∧
  (∀ (d : PointIx) (a : SlotIx), (encode (.psmb d a)).toNat = commandWord 0x26 d.val a.val 0 0) ∧
  (∀ (d : PointIx) (a : SlotIx) (b : PointIx) (c : SlotIx), (encode (.pdsm d a b c)).toNat = commandWord 0x27 d.val a.val b.val c.val) ∧
  (∀ (d a : SlotIx) (b : PairIx), (encode (.keypair d a b)).toNat = commandWord 0x30 d.val a.val (2 * b.val) 0) ∧
  (∀ (d : PairIx) (a : SlotIx), (encode (.signSeed d a)).toNat = commandWord 0x31 (2 * d.val) a.val 0 0) ∧
  (∀ d a : PairIx, (encode (.signExp d a)).toNat = commandWord 0x32 (2 * d.val) (2 * a.val) 0 0) ∧
  (∀ (d : PairIx) (a b : SlotIx), (encode (.signKp d a b)).toNat = commandWord 0x33 (2 * d.val) a.val b.val 0) ∧
  (∀ (a : PairIx) (b : SlotIx), (encode (.verify a b)).toNat = commandWord 0x34 0 (2 * a.val) b.val 0) ∧
  (∀ b : SlotIx, (encode (.openMsg b)).toNat = commandWord 0x35 0 0 b.val 0)

/-! ### Steps and the command life cycle -/

/-- On the engine's turn, a step of a machine BUSY with a word that decodes is exec of the command (R37, R85). -/
def Obligations.StepRunsTheDecodedCommand : Prop :=
  ∀ (s u : State) (w : Word) (i : Instr), s.EngineTurn u → s.engine = .busy w → decode w = .ok i → step s = exec i u

/-- R84: an illegal word completes with ERR = ILLEGAL and changes nothing else. -/
def Obligations.IllegalWordEndsIllegalAndChangesNothing : Prop :=
  ∀ (s u : State) (w : Word), s.EngineTurn u → s.engine = .busy w → IllegalWord w →
    ∃ t, step s = .next t ∧ u.FailsWith t .illegal

/-- The CORE has no traps and answers every access (R51, R200): every step of every state answers a next state. -/
def Obligations.EveryStepAnswersANextState : Prop :=
  ∀ s : State, ∃ t, step s = .next t

/-- R200: a command that ends with an error code completes and writes no destination. -/
def Obligations.FailedCommandWritesNoDestination : Prop :=
  ∀ (i : Instr) (s t : State), exec i s = .next t → t.err ≠ .ok → s.FailsWith t t.err

/-- Who writes what (R35, R40, R68, R200): every command completes; none touches CMD, OVF, IE, MSG_LEN or the
parameters; only OPEN writes OUT_LEN or MSG, only VERIFY and OPEN write VALID, only FINV writes Z0 and only to 1. -/
def Obligations.OnlyTheNamedCommandsWriteEachResult : Prop :=
  ∀ (i : Instr) (s : State), ∃ t, exec i s = .next t ∧ s.ControlKept t ∧ t.EndsWith t.err ∧
    ((∃ b, i = .openMsg b) ∨ (t.outLen = s.outLen ∧ s.MsgKept t)) ∧
    ((∃ b, i = .openMsg b) ∨ (∃ a b, i = .verify a b) ∨ t.valid = s.valid) ∧
    ((∃ d a, i = .finv d a ∧ (t.z0 = s.z0 ∨ t.z0 = true)) ∨ t.z0 = s.z0)

/-- R37, R60, R66: while BUSY no bus access but a reset changes the running command or anything a command reads. -/
def Obligations.BusAccessesWhileBusyKeepTheOperands : Prop :=
  ∀ (s : State) (w : Word) (a : BusAccess) (es : List Event), s.engine = .busy w → s.events = .bus a :: es →
    (Event.bus a).resets = false →
    ∃ t, step s = .next t ∧ t.engine = .busy w ∧ t.cmd = s.cmd ∧ t.events = es ∧ s.OperandsKept t

/-- R245's fairness as a bound, in the model's order of events (assumption log 3): whatever the host does, short of a reset, a BUSY engine has completed after at most one
step more than there are events. -/
def Obligations.BusyEngineCompletesUnlessReset : Prop :=
  ∀ (s : State) (w : Word), s.engine = .busy w → (∀ e ∈ s.events, e.resets = false) →
    ∃ k t, k ≤ s.events.length + 1 ∧ s.Reaches k t ∧ t.engine = .idle ∧ t.done = true ∧ t.cmd = s.cmd

/-! ### Reset (R38, R230, R231) -/

/-- The power-on column of R38 at `State.reset`, with the default parameters of R6 and no message byte written. -/
def Obligations.ResetStateHasThePowerOnValues : Prop :=
  State.reset.HasResetValues ⟨4096, false⟩ ∧ ∀ n, State.reset.msg.read? n = none

/-- The hardware reset input (R230): every state takes its power-on value. The message RAM holds no written byte (what
it reads as then is the free value of assumption log 2). -/
def Obligations.PowerOnSetsThePowerOnValues : Prop :=
  ∀ (s : State) (es : List Event), s.events = .powerOn :: es →
    ∃ t, step s = .next t ∧ t.HasResetValues s.params ∧ (∀ n, t.msg.read? n = none) ∧ t.events = es

/-- R231: a CTRL write with SRST = 1 performs the soft reset in one step, in every engine state, with an OKAY; MSG is
unchanged and a command in flight is abandoned. -/
def Obligations.SoftResetSetsTheSoftValues : Prop :=
  ∀ (s : State) (v : Word) (es : List Event), s.events = wr 0x008 v :: es → v.getLsbD 0 = true →
    ∃ t, step s = .next t ∧ t.HasResetValues s.params ∧ s.MsgKept t ∧ t.response = some (.okay none) ∧ t.events = es

/-! ### The bus and the registers (10_state.md, 20_memory.md) -/

/-- R36: a CMD write while IDLE accepts the command. -/
def Obligations.CmdWriteWhileIdleAcceptsTheCommand : Prop :=
  ∀ (s : State) (v : Word) (es : List Event), s.events = wr 0x000 v :: es → s.engine = .idle →
    ∃ t, step s = .next t ∧ t.cmd = v ∧ t.engine = .busy v ∧ t.busy = true ∧ t.done = false ∧ t.err = .ok ∧
      t.valid = false ∧ t.z0 = s.z0 ∧ t.ovf = s.ovf ∧ t.slots = s.slots ∧ t.points = s.points ∧ t.msg = s.msg ∧
      t.outLen = s.outLen ∧ t.msgLen = s.msgLen ∧ t.ie = s.ie ∧ t.params = s.params ∧ t.events = es ∧
      t.response = some (.okay none)

/-- R207: a CMD write while BUSY is ignored with an OKAY and sets OVF; nothing else changes. -/
def Obligations.CmdWriteWhileBusyOnlySetsOvf : Prop :=
  ∀ (s : State) (v w : Word) (es : List Event), s.events = wr 0x000 v :: es → s.engine = .busy w →
    step s = .next { s with ovf := true, events := es, response := some (.okay none) }

/-- R33: a CTRL write with SRST = 0 clears DONE, Z0 and OVF if CLR = 1 and stores IE from bit 2, in every engine state;
a CTRL write with SRST = 1 leaves IE = 0 whatever its other bits; CTRL then reads IE in bit 2 and 0 elsewhere. -/
def Obligations.CtrlWriteClearsAndStoresIe : Prop :=
  ∀ (s : State) (v : Word) (es : List Event), s.events = wr 0x008 v :: es →
    ∃ t, step s = .next t ∧ t.response = some (.okay none) ∧
      (v.getLsbD 0 = false → v.getLsbD 1 = true →
        t = { s with done := false, z0 := false, ovf := false, ie := v.getLsbD 2, events := es, response := t.response }) ∧
      (v.getLsbD 0 = false → v.getLsbD 1 = false → t = { s with ie := v.getLsbD 2, events := es, response := t.response }) ∧
      (v.getLsbD 0 = true → t.HasResetValues s.params ∧ s.MsgKept t) ∧
      t.busRead ⟨0x008, 0xF, .read⟩ = .okay (some (if t.ie then 4 else 0))

/-- R60: while BUSY, every access to the slot window or the message window and every write to MSG_LEN gets a bus ERROR
and has no effect; the seven registers read as they stand, a CTRL write is served, and a CMD write is ignored with OVF and
an OKAY. -/
def Obligations.BusyLocksOutSlotsMessageAndMsgLen : Prop :=
  ∀ (s : State) (a : BusAccess) (es : List Event), s.busy = true → s.events = .bus a :: es →
    ((0x200 ≤ a.addr.toNat ∧ a.addr.toNat < 0x400) ∨
      (0x1000 ≤ a.addr.toNat ∧ a.addr.toNat < 0x1000 + s.params.msgSize) ∨
      (a.addr = 0x00C ∧ ∃ v, a.op = .write v) →
        ∃ d, step s = .next { s with events := es, response := some (.error d) }) ∧
    (a.strobes = 0xF → a.op = .read →
      (∀ v, (a.addr, v) ∈ [((0x000 : Addr), s.cmd), (0x004, s.statusWord), (0x008, s.ctrlWord), (0x00C, s.msgLen),
          (0x010, s.outLen), (0x014, idWord), (0x018, s.paramWord)] →
        step s = .next { s with events := es, response := some (.okay (some v)) })) ∧
    (∀ v, a = ⟨0x000, 0xF, .write v⟩ →
      step s = .next { s with ovf := true, events := es, response := some (.okay none) }) ∧
    (∀ v, a = ⟨0x008, 0xF, .write v⟩ →
      step s = .next { State.writeCtrl { s with events := es } v with response := some (.okay none) })

/-- R59: no read has a side effect; whatever the address, strobes and engine state, only the response is new. -/
def Obligations.ReadsHaveNoSideEffect : Prop :=
  ∀ (s : State) (addr : Addr) (strobes : BitVec 4) (es : List Event), s.events = .bus ⟨addr, strobes, .read⟩ :: es →
    ∃ r, step s = .next { s with events := es, response := some r }

/-- R58: an access to an unmapped address (R52) gets a bus ERROR with no effect, and a read returns 0 with it. That an
unmapped read which is also misaligned or partial returns 0 is the model's reading of R58 (assumption log 10). -/
def Obligations.UnmappedAccessGetsAnErrorAndDataZero : Prop :=
  ∀ (s : State) (a : BusAccess) (es : List Event), s.events = .bus a :: es →
    ((0x01C ≤ a.addr.toNat ∧ a.addr.toNat < 0x200) ∨ (0x400 ≤ a.addr.toNat ∧ a.addr.toNat < 0x1000) ∨
      0x1000 + s.params.msgSize ≤ a.addr.toNat) →
    (a.op = .read → step s = .next { s with events := es, response := some (.error (some 0)) }) ∧
    (∀ v, a.op = .write v → step s = .next { s with events := es, response := some (.error none) })

/-- R56: an access that is misaligned, or whose strobes are not all four, gets a bus ERROR and has no effect. -/
def Obligations.MisalignedOrPartialAccessHasNoEffect : Prop :=
  ∀ (s : State) (a : BusAccess) (es : List Event), s.events = .bus a :: es →
    (a.addr.toNat % 4 ≠ 0 ∨ a.strobes ≠ 0xF) →
    ∃ d, step s = .next { s with events := es, response := some (.error d) }

/-- R53, R54: while IDLE, the word at 0x200 + 32·i + 4·m reads bytes 4m..4m+3 of D[i] little-endian, and a write of v
stores byte k of v into byte 4m + k of D[i] and changes nothing else. -/
def Obligations.SlotWindowHoldsTheSlotsLittleEndian : Prop :=
  ∀ (s : State) (i : SlotIx) (m : Fin 8) (addr : Addr) (es : List Event), s.engine = .idle →
    addr.toNat = 0x200 + 32 * i.val + 4 * m.val →
    (s.events = rd addr :: es → ∃ v : Word,
      step s = .next { s with events := es, response := some (.okay (some v)) } ∧
      ∀ k, k < 4 → byteAt v k = byteAt (s.slot i) (4 * m.val + k)) ∧
    (∀ v, s.events = wr addr v :: es → ∃ t,
      step s = .next t ∧ t.response = some (.okay none) ∧ t = { s with slots := t.slots, events := es, response := t.response } ∧
      (∀ k, k < 4 → byteAt (t.slot i) (4 * m.val + k) = byteAt v k) ∧
      (∀ j, j < 32 → j / 4 ≠ m.val → byteAt (t.slot i) j = byteAt (s.slot i) j) ∧ ∀ j, j ≠ i → t.slot j = s.slot j)

/-- R54, R55: while IDLE, the word at 0x1000 + 4m reads MSG[4m..4m+3] little-endian, and a write of v stores byte k of v
into MSG[4m + k] and changes nothing else, for every m with the word inside the window. -/
def Obligations.MessageWindowHoldsMsgLittleEndian : Prop :=
  ∀ (s : State) (m : Nat) (addr : Addr) (es : List Event), s.engine = .idle → s.params.Ok →
    4 * m < s.params.msgSize → addr.toNat = 0x1000 + 4 * m →
    (s.events = rd addr :: es → ∃ v : Word,
      step s = .next { s with events := es, response := some (.okay (some v)) } ∧
      ∀ k, k < 4 → byteAt v k = s.msg.byte (4 * m + k)) ∧
    (∀ v, s.events = wr addr v :: es → ∃ t,
      step s = .next t ∧ t.response = some (.okay none) ∧ t = { s with msg := t.msg, events := es, response := t.response } ∧
      (∀ k, k < 4 → t.msg.byte (4 * m + k) = byteAt v k) ∧
      ∀ n, (n < 4 * m ∨ 4 * m + 4 ≤ n) → t.msg.byte n = s.msg.byte n)

/-- R30, R39, R201: the fields of STATUS with the error codes in numbers, and its reserved bits read 0. -/
def Obligations.StatusWordHasTheFieldsInPlace : Prop :=
  ∀ s : State, s.statusWord.getLsbD 0 = s.busy ∧ s.statusWord.getLsbD 1 = s.done ∧
    s.statusWord.extractLsb' 4 4 = s.err.code ∧ s.statusWord.getLsbD 8 = s.valid ∧ s.statusWord.getLsbD 9 = s.z0 ∧
    s.statusWord.getLsbD 10 = s.ovf ∧ s.statusWord.extractLsb' 2 2 = 0 ∧ s.statusWord.extractLsb' 11 21 = 0 ∧
    (s.busy = true ↔ s.engine ≠ .idle) ∧
    (s.err, (s.statusWord.extractLsb' 4 4).toNat) ∈
      [(ErrCode.ok, 0), (.illegal, 1), (.uninit, 2), (.length, 3), (.range, 4), (.notOnCurve, 5), (.negZero, 6)]

/-- R28 to R35, R60: in every engine state a full-word read of each of the seven registers ends OKAY with the register as
it stands and changes nothing; CTRL reads IE in bit 2 and 0 elsewhere. `StatusWordHasTheFieldsInPlace` says what the
word read from STATUS is, `ReadOnlyRegistersIgnoreWrites` what PARAM's is. -/
def Obligations.RegistersReadAsTheyStandInEveryEngineState : Prop :=
  ∀ (s : State) (addr : Addr) (v : Word) (es : List Event), s.events = rd addr :: es →
    (addr, v) ∈ [((0x000 : Addr), s.cmd), (0x004, s.statusWord), (0x008, if s.ie then 4 else 0), (0x00C, s.msgLen),
      (0x010, s.outLen), (0x014, 0xED250001), (0x018, s.paramWord)] →
    step s = .next { s with events := es, response := some (.okay (some v)) }

/-- R28, R31, R32: ID reads 0xED250001 and PARAM shows MSG_SIZE and STRICT_S in every engine state; a write to STATUS,
OUT_LEN, ID or PARAM is ignored and gets an OKAY. -/
def Obligations.ReadOnlyRegistersIgnoreWrites : Prop :=
  (∀ (s : State) (es : List Event), s.events = rd 0x014 :: es →
    step s = .next { s with events := es, response := some (.okay (some 0xED250001)) }) ∧
  (∀ (s : State) (es : List Event), s.params.Ok → s.events = rd 0x018 :: es → ∃ v : Word,
    step s = .next { s with events := es, response := some (.okay (some v)) } ∧
      v.toNat = s.params.msgSize + (if s.params.strictS then 2 ^ 16 else 0)) ∧
  (∀ (s : State) (addr : Addr) (v : Word) (es : List Event), addr ∈ [(0x004 : Addr), 0x010, 0x014, 0x018] →
    s.events = wr addr v :: es → step s = .next { s with events := es, response := some (.okay none) })

/-- R34: MSG_LEN stores all 32 bits of a write while IDLE and reads them back; nothing else changes. -/
def Obligations.MsgLenStoresAllBitsWhileIdle : Prop :=
  ∀ (s : State) (v : Word) (es : List Event), s.engine = .idle → s.events = wr 0x00C v :: es →
    step s = .next { s with msgLen := v, events := es, response := some (.okay none) } ∧
    State.busRead { s with msgLen := v } ⟨0x00C, 0xF, .read⟩ = .okay (some v)

/-- R210: IRQ is IE ∧ DONE, so a completion raises it exactly when IE = 1, and acceptance, CTRL.CLR, clearing IE
and both resets drop it. -/
def Obligations.InterruptFollowsIeAndDone : Prop :=
  (∀ s : State, s.irq = (s.ctrlWord.getLsbD 2 && s.statusWord.getLsbD 1)) ∧
  (∀ (i : Instr) (s t : State), exec i s = .next t → t.irq = s.ie) ∧
  (∀ (s : State) (v : Word), (s.accept v).irq = false ∧ s.powerOn.irq = false) ∧
  (∀ (s : State) (v : Word), v.getLsbD 0 = true ∨ v.getLsbD 1 = true ∨ v.getLsbD 2 = false →
    (s.writeCtrl v).irq = false) ∧
  (∀ (s : State) (v : Word), v.getLsbD 0 = false → v.getLsbD 1 = false → v.getLsbD 2 = true →
    (s.writeCtrl v).irq = s.done)

/-! ### Invariants -/

/-- Every step keeps the housekeeping invariant: legal parameters, MSG in canonical form, a BUSY word equal to CMD with
DONE, ERR and VALID clear, VALID only with ERR = OK, OUT_LEN within bounds. -/
def Obligations.StepKeepsTheInvariant : Prop :=
  ∀ s t : State, s.Inv → step s = .next t → t.Inv

/-- R30: DONE, Z0 and OVF are sticky. A step that drops Z0 or OVF is a reset or a CTRL write with CLR; one that drops DONE
is one of these or the acceptance of a command. -/
def Obligations.StickyFlagsFallOnlyByClearOrReset : Prop :=
  ∀ s t : State, step s = .next t →
    ((s.z0 = true ∧ t.z0 = false) ∨ (s.ovf = true ∧ t.ovf = false) →
      ∃ e es, s.events = e :: es ∧ (e.resets = true ∨ ∃ v, e = wr 0x008 v ∧ v.getLsbD 1 = true)) ∧
    (s.done = true ∧ t.done = false →
      ∃ e es, s.events = e :: es ∧
        (e.resets = true ∨ (∃ v, e = wr 0x008 v ∧ v.getLsbD 1 = true) ∨ ∃ v, e = wr 0x000 v ∧ s.engine = .idle))

/-- The housekeeping invariant and R24's hold right after reset. -/
def Obligations.ResetMeetsTheInvariants : Prop :=
  State.reset.Inv ∧ State.reset.PointsOnCurve

/-- R24: every step keeps every valid point register on the curve. -/
def Obligations.StepKeepsPointRegistersOnTheCurve : Prop :=
  ∀ s t : State, s.PointsOnCurve → step s = .next t → t.PointsOnCurve

/-! ### Field commands (40_field.md) -/

/-- R101, R102, R103 with R100: FADD, FSUB and FMUL write the canonical encoding of the residue. -/
def Obligations.FieldSumDifferenceAndProduct : Prop :=
  ∀ (d a b : SlotIx) (s : State),
    let x := fieldValue (s.slot a)
    let y := fieldValue (s.slot b)
    (∃ t, exec (.fadd d a b) s = .next t ∧ Encodes (t.slot d) ((x + y) % (2 ^ 255 - 19)) ∧
      s.CompletesWriting t [d] []) ∧
    (∃ t, exec (.fsub d a b) s = .next t ∧ Encodes (t.slot d) (((x : Int) - y) % (2 ^ 255 - 19)).toNat ∧
      s.CompletesWriting t [d] []) ∧
    (∃ t, exec (.fmul d a b) s = .next t ∧ Encodes (t.slot d) (x * y % (2 ^ 255 - 19)) ∧
      s.CompletesWriting t [d] [])

/-- R104, R106, R108 with R100: FSQ, FNEG and FCANON. -/
def Obligations.FieldSquareNegationAndCanonicalForm : Prop :=
  ∀ (d a : SlotIx) (s : State),
    let x := fieldValue (s.slot a)
    (∃ t, exec (.fsq d a) s = .next t ∧ Encodes (t.slot d) (x * x % (2 ^ 255 - 19)) ∧ s.CompletesWriting t [d] []) ∧
    (∃ t, exec (.fneg d a) s = .next t ∧ Encodes (t.slot d) ((2 ^ 255 - 19 - x) % (2 ^ 255 - 19)) ∧
      s.CompletesWriting t [d] []) ∧
    (∃ t, exec (.fcanon d a) s = .next t ∧ Encodes (t.slot d) x ∧ s.CompletesWriting t [d] [])

/-- R105: FINV writes the Fermat power, which is the inverse of a non-zero input and 0 for 0, and sets Z0 exactly when
the input is 0, leaving it otherwise. -/
def Obligations.FieldInverseIsTheFermatPower : Prop :=
  ∀ (d a : SlotIx) (s : State),
    let x := fieldValue (s.slot a)
    ∃ t, exec (.finv d a) s = .next t ∧ Encodes (t.slot d) (x ^ (2 ^ 255 - 21) % (2 ^ 255 - 19)) ∧
      (x ≠ 0 → x * leValue (t.slot d) % (2 ^ 255 - 19) = 1) ∧ (x = 0 → leValue (t.slot d) = 0) ∧
      t.z0 = (s.z0 || x == 0) ∧
      t.EndsWith .ok ∧ s.ControlKept t ∧ s.SlotsKeptBut t [d] ∧ s.PointsKeptBut t [] ∧ s.MsgKept t ∧
      t.valid = s.valid ∧ t.outLen = s.outLen

/-- R107: FCSWAP swaps the two field elements when bit 0 of D[b] is 1 and rewrites them canonically either way; with
d = a the slot ends as FE(x). -/
def Obligations.ConditionalSwapRewritesBothSlots : Prop :=
  ∀ (d a b : SlotIx) (s : State),
    let x := fieldValue (s.slot d)
    let y := fieldValue (s.slot a)
    ∃ t, exec (.fcswap d a b) s = .next t ∧ s.CompletesWriting t [d, a] [] ∧
      ((byteAt (s.slot b) 0).getLsbD 0 = true → Encodes (t.slot d) y ∧ Encodes (t.slot a) x) ∧
      ((byteAt (s.slot b) 0).getLsbD 0 = false → Encodes (t.slot d) x ∧ Encodes (t.slot a) y) ∧
      (d = a → Encodes (t.slot d) x)

/-! ### Scalar commands (41_scalar.md) -/

/-- R131, R132 with R130: SRED and SMULADD write the exact residue modulo ℓ, with bits 255 to 253 clear. -/
def Obligations.ScalarReductionAndMultiplyAdd : Prop :=
  ∀ s : State,
    (∀ (d : SlotIx) (a : PairIx), ∃ t, exec (.sred d a) s = .next t ∧
      leValue (t.slot d) = (leValue (s.slot a.low) + 2 ^ 256 * leValue (s.slot a.high)) % orderL ∧
      (t.slot d).extractLsb' 253 3 = 0 ∧ s.CompletesWriting t [d] []) ∧
    (∀ d a b c : SlotIx, ∃ t, exec (.smuladd d a b c) s = .next t ∧
      leValue (t.slot d) = (leValue (s.slot a) * leValue (s.slot b) + leValue (s.slot c)) % orderL ∧
      (t.slot d).extractLsb' 253 3 = 0 ∧ s.CompletesWriting t [d] [])

/-! ### Point commands (42_point.md) -/

/-- R141, R143 with R19: PDEC loads the point with the root of the encoding's sign, PDECN its negation; both fail
NOT_ON_CURVE when no root exists and NEG_ZERO when the root is 0 and the sign bit 1. -/
def Obligations.PointDecodeFindsTheRootOfTheSign : Prop :=
  ∀ (d : PointIx) (a : SlotIx) (s : State),
    let w := s.slot a
    ((¬ ∃ x, IsRootFor w x) →
      (∃ t, exec (.pdec d a) s = .next t ∧ s.FailsWith t .notOnCurve) ∧
      (∃ t, exec (.pdecn d a) s = .next t ∧ s.FailsWith t .notOnCurve)) ∧
    (IsRootFor w 0 → w.getLsbD 255 = true →
      (∃ t, exec (.pdec d a) s = .next t ∧ s.FailsWith t .negZero) ∧
      (∃ t, exec (.pdecn d a) s = .next t ∧ s.FailsWith t .negZero)) ∧
    (∀ x, IsRootFor w x → x % 2 = (w.getLsbD 255).toNat →
      (∃ t, exec (.pdec d a) s = .next t ∧ t.point d = some ⟨x, fieldValue w⟩ ∧ OnCurve ⟨x, fieldValue w⟩ ∧
        s.CompletesWriting t [] [d]) ∧
      (∃ t, exec (.pdecn d a) s = .next t ∧
        t.point d = some ⟨(2 ^ 255 - 19 - x) % (2 ^ 255 - 19), fieldValue w⟩ ∧ s.CompletesWriting t [] [d]))

/-- R19: every encoding has a root of its sign, or fails in one of the two ways, and never both. -/
def Obligations.PointDecodeOutcomesAreExclusive : Prop :=
  ∀ w : Slot,
    (pointDecode w = .error .notOnCurve ↔ ¬ ∃ x, IsRootFor w x) ∧
    (pointDecode w = .error .negZero ↔ IsRootFor w 0 ∧ w.getLsbD 255 = true) ∧
    (∀ q, pointDecode w = .ok q ↔ (IsRootFor w q.x ∧ q.x % 2 = (w.getLsbD 255).toNat ∧ q.y = fieldValue w))

/-- R19: PD(PE(Q)) = Q for every Q of E, and the encoding is canonical: its LE value is y + 2^255·sign(x) with y < p. -/
def Obligations.PointDecodeOfEncodeIsThePoint : Prop :=
  ∀ q : Point, OnCurve q →
    pointDecode (pointEncode q) = .ok q ∧ fieldValue (pointEncode q) = q.y ∧
      (pointEncode q).getLsbD 255 = (q.x % 2 == 1) ∧
      leValue (pointEncode q) = q.y + 2 ^ 255 * (q.x % 2) ∧ q.y < 2 ^ 255 - 19

/-- R142: PENC writes LEB_32(y + 2^255·sign(x)) of a point of E, and fails UNINIT when PV = 0. -/
def Obligations.PointEncodeWritesYAndSign : Prop :=
  ∀ (d : SlotIx) (a : PointIx) (s : State),
    (∀ q, s.point a = some q → OnCurve q →
      ∃ t, exec (.penc d a) s = .next t ∧ leValue (t.slot d) = q.y + 2 ^ 255 * (q.x % 2) ∧ s.CompletesWriting t [d] []) ∧
    (s.point a = none → ∃ t, exec (.penc d a) s = .next t ∧ s.FailsWith t .uninit)

/-- R144, R145 with R16: PADD and PDBL write the Edwards sum of points of E, and fail UNINIT when a source has PV = 0. -/
def Obligations.PointSumSatisfiesTheGroupLaw : Prop :=
  ∀ (d a b : PointIx) (s : State),
    (∀ q r, s.point a = some q → s.point b = some r → OnCurve q → OnCurve r →
      ∃ t u, exec (.padd d a b) s = .next t ∧ t.point d = some u ∧ IsSum q r u ∧ OnCurve u ∧
        s.CompletesWriting t [] [d]) ∧
    (∀ q, s.point a = some q → OnCurve q →
      ∃ t u, exec (.pdbl d a) s = .next t ∧ t.point d = some u ∧ IsSum q q u ∧ OnCurve u ∧
        s.CompletesWriting t [] [d]) ∧
    (s.point a = none ∨ s.point b = none → ∃ t, exec (.padd d a b) s = .next t ∧ s.FailsWith t .uninit) ∧
    (s.point a = none → ∃ t, exec (.pdbl d a) s = .next t ∧ s.FailsWith t .uninit)

/-- R16: on E the sum is the only pair of field elements the two equations allow, the denominators being invertible. -/
def Obligations.EdwardsSumIsUnique : Prop :=
  ∀ p q r : Point, OnCurve p → OnCurve q → (IsSum p q r ↔ r = p.add q)

/-- R147: PNEG writes ((p - x) mod p, y), and fails UNINIT when PV = 0. -/
def Obligations.PointNegateNegatesX : Prop :=
  ∀ (d a : PointIx) (s : State),
    (∀ q, s.point a = some q → OnCurve q → ∃ t, exec (.pneg d a) s = .next t ∧
      t.point d = some ⟨(2 ^ 255 - 19 - q.x) % (2 ^ 255 - 19), q.y⟩ ∧ s.CompletesWriting t [] [d]) ∧
    (s.point a = none → ∃ t, exec (.pneg d a) s = .next t ∧ s.FailsWith t .uninit)

/-- R17: the model's scalar multiplication (assumption log 5) satisfies the recursion, and multiples of B depend on k mod ℓ
alone, which the spec derives. -/
def Obligations.ScalarMultipleIsRepeatedAddition : Prop :=
  (∀ q : Point, OnCurve q → Point.smul 0 q = ⟨0, 1⟩ ∧ ∀ k, Point.smul (k + 1) q = (Point.smul k q).add q) ∧
  ∀ k, Point.smul k basePoint = Point.smul (k % orderL) basePoint

/-- R146, R149 with R17: PSMB writes [k]B for k < 2^255 and fails RANGE otherwise; [k]B = [k mod ℓ]B. -/
def Obligations.FixedBaseMultiplyWritesTheMultiple : Prop :=
  ∀ (d : PointIx) (a : SlotIx) (s : State),
    (leValue (s.slot a) < 2 ^ 255 → ∃ t, exec (.psmb d a) s = .next t ∧
      t.point d = some (basePoint.multiple (leValue (s.slot a))) ∧ s.CompletesWriting t [] [d]) ∧
    (2 ^ 255 ≤ leValue (s.slot a) → ∃ t, exec (.psmb d a) s = .next t ∧ s.FailsWith t .range) ∧
    ∀ k, basePoint.multiple k = basePoint.multiple (k % orderL)

/-- R148, R149, R209 with R17: PDSM writes [h]P[b] + [s]B, failing UNINIT first, then RANGE for h or s. -/
def Obligations.DoubleScalarMultiplyWritesTheSum : Prop :=
  ∀ (d : PointIx) (a : SlotIx) (b : PointIx) (c : SlotIx) (s : State),
    (s.point b = none → ∃ t, exec (.pdsm d a b c) s = .next t ∧ s.FailsWith t .uninit) ∧
    (∀ q, s.point b = some q → (2 ^ 255 ≤ leValue (s.slot a) ∨ 2 ^ 255 ≤ leValue (s.slot c)) →
      ∃ t, exec (.pdsm d a b c) s = .next t ∧ s.FailsWith t .range) ∧
    (∀ q, s.point b = some q → OnCurve q → leValue (s.slot a) < 2 ^ 255 → leValue (s.slot c) < 2 ^ 255 →
      ∃ t, exec (.pdsm d a b c) s = .next t ∧
        t.point d = some ((q.multiple (leValue (s.slot a))).add (basePoint.multiple (leValue (s.slot c)))) ∧
        s.CompletesWriting t [] [d])

/-! ### Signature commands (43_signature.md) -/

/-- R5: clamping clears bits 0, 1, 2 and 255, sets bit 254 and keeps the others; the scalar is a multiple of 8 in
[2^254, 2^255). -/
def Obligations.ClampSetsAndClearsTheNamedBits : Prop :=
  ∀ b : Slot,
    (∀ k, k < 256 → (clamp b).getLsbD k =
      if k = 0 ∨ k = 1 ∨ k = 2 ∨ k = 255 then false else if k = 254 then true else b.getLsbD k) ∧
    2 ^ 254 ≤ leValue (clamp b) ∧ leValue (clamp b) < 2 ^ 255 ∧ leValue (clamp b) % 8 = 0

/-- R175: KEYPAIR writes the digest of the seed, unclamped, to DP[b] and the public key to D[d]; with d in the output pair
it ends ILLEGAL (R84). -/
def Obligations.KeypairWritesDigestAndPublicKey : Prop :=
  ∀ (d a : SlotIx) (b : PairIx) (s : State),
    (d ≠ b.low → d ≠ b.high → ∃ t, exec (.keypair d a b) s = .next t ∧
      t.pair b = Config.sha512 (slotBytes (s.slot a)) ∧ IsPublicKeyOf (t.slot d) (Config.sha512 (slotBytes (s.slot a))) ∧
      s.CompletesWriting t [d, b.low, b.high] []) ∧
    (d = b.low ∨ d = b.high → ∃ t, exec (.keypair d a b) s = .next t ∧ s.FailsWith t .illegal)

/-- R176, R177, R178 with R172: each signing command writes R ‖ S to DP[d] when MSG_LEN ≤ MSG_SIZE, and ends LENGTH
otherwise. -/
def Obligations.SigningCommandsWriteTheSignature : Prop :=
  ∀ (d : PairIx) (s : State),
    (s.msgLen.toNat ≤ s.params.msgSize →
      (∀ a : SlotIx, ∃ t A, exec (.signSeed d a) s = .next t ∧
        IsPublicKeyOf A (Config.sha512 (slotBytes (s.slot a))) ∧
        IsSignature (t.pair d) (Config.sha512 (slotBytes (s.slot a))) A (s.msg.memRead 0 s.msgLen.toNat) ∧
        s.CompletesWriting t [d.low, d.high] []) ∧
      (∀ a : PairIx, ∃ t A, exec (.signExp d a) s = .next t ∧ IsPublicKeyOf A (s.pair a) ∧
        IsSignature (t.pair d) (s.pair a) A (s.msg.memRead 0 s.msgLen.toNat) ∧
        s.CompletesWriting t [d.low, d.high] []) ∧
      (∀ a b : SlotIx, ∃ t, exec (.signKp d a b) s = .next t ∧
        IsSignature (t.pair d) (Config.sha512 (slotBytes (s.slot a))) (s.slot b) (s.msg.memRead 0 s.msgLen.toNat) ∧
        s.CompletesWriting t [d.low, d.high] [])) ∧
    (s.params.msgSize < s.msgLen.toNat →
      (∀ a : SlotIx, ∃ t, exec (.signSeed d a) s = .next t ∧ s.FailsWith t .length) ∧
      (∀ a : PairIx, ∃ t, exec (.signExp d a) s = .next t ∧ s.FailsWith t .length) ∧
      (∀ a b : SlotIx, ∃ t, exec (.signKp d a b) s = .next t ∧ s.FailsWith t .length))

/-- R180 with R173, R181: VERIFY sets VALID to the predicate with ERR = OK, writes no slot or point register, and ends
LENGTH when MSG_LEN > MSG_SIZE. -/
def Obligations.VerifySetsValidToThePredicate : Prop :=
  ∀ (a : PairIx) (b : SlotIx) (s : State),
    (s.msgLen.toNat ≤ s.params.msgSize →
      ∃ t, exec (.verify a b) s = .next t ∧ t.EndsWith .ok ∧
        (t.valid = true ↔ Verifies s.params.strictS (s.msg.memRead 0 s.msgLen.toNat) (s.pair a) (s.slot b)) ∧
        s.ControlKept t ∧ s.SlotsKeptBut t [] ∧ s.PointsKeptBut t [] ∧ s.MsgKept t ∧ t.z0 = s.z0 ∧ t.outLen = s.outLen) ∧
    (s.params.msgSize < s.msgLen.toNat → ∃ t, exec (.verify a b) s = .next t ∧ s.FailsWith t .length)

/-- R186: OPEN releases the message of a valid signed message, zeroes MSG[0..MSG_LEN) of an invalid one, and ends LENGTH
when MSG_LEN is below 64 or above MSG_SIZE. -/
def Obligations.OpenReleasesOrZeroesTheMessage : Prop :=
  ∀ (b : SlotIx) (s : State),
    let n := s.msgLen.toNat
    (64 ≤ n → n ≤ s.params.msgSize → ∀ sig : Bytes64, (∀ j, j < 64 → byteAt sig j = s.msg.byte j) →
      ∃ t, exec (.openMsg b) s = .next t ∧ t.EndsWith .ok ∧
        (t.valid = true ↔ Verifies s.params.strictS (s.msg.memRead 64 (n - 64)) sig (s.slot b)) ∧
        (t.valid = true → t.outLen.toNat = n - 64 ∧ s.MsgKept t) ∧
        (t.valid = false → t.outLen = 0 ∧ (∀ k, k < n → t.msg.byte k = 0) ∧ ∀ k, n ≤ k → t.msg.byte k = s.msg.byte k) ∧
        s.ControlKept t ∧ s.SlotsKeptBut t [] ∧ s.PointsKeptBut t [] ∧ t.z0 = s.z0) ∧
    (n < 64 ∨ s.params.msgSize < n → ∃ t, exec (.openMsg b) s = .next t ∧ s.FailsWith t .length)

/-- The source's round trip (L1.2), for every seed, message and SHA512: what SIGN_SEED writes, VERIFY accepts under the
seed's public key, whatever STRICT_S is. -/
def Obligations.SignedMessageVerifies : Prop :=
  ∀ (d : PairIx) (a b : SlotIx) (s : State), s.msgLen.toNat ≤ s.params.msgSize → b ≠ d.low → b ≠ d.high →
    s.slot b = publicKey (expandSeed (s.slot a)) →
    ∃ t u, exec (.signSeed d a) s = .next t ∧ exec (.verify d b) t = .next u ∧ u.err = .ok ∧ u.valid = true

/-- R171, R176: the three key forms sign alike: SIGN_EXP on the expanded key, stored clamped or not, and SIGN_KP with
the matching public key complete in the same state as SIGN_SEED. -/
def Obligations.KeyFormsSignAlike : Prop :=
  ∀ (d e : PairIx) (a b : SlotIx) (s : State),
    let h := expandSeed (s.slot a)
    (s.pair e = h ∨ s.pair e = join (clamp (firstHalf h)) (secondHalf h) → exec (.signExp d e) s = exec (.signSeed d a) s) ∧
    (s.slot b = publicKey h → exec (.signKp d a b) s = exec (.signSeed d a) s)

/-- R181, R180 and 90_conflicts.md C1: VERIFY rejects every S ≥ 2^253; with STRICT_S every S ≥ ℓ; without it, S + ℓ in
place of S verifies as S does when S + ℓ < 2^253. -/
def Obligations.SCheckRejectsAndMalleabilityRemains : Prop :=
  ∀ (M : List Byte) (R S A : Slot),
    (2 ^ 253 ≤ leValue S → ∀ strictS, verifyCore strictS M (join R S) A = false) ∧
    (orderL ≤ leValue S → verifyCore true M (join R S) A = false) ∧
    (leValue S + orderL < 2 ^ 253 →
      verifyCore false M (join R (leb32 (leValue S + orderL))) A = verifyCore false M (join R S) A)

/-- R68: no command reads MSG at or beyond MSG_LEN, and none but OPEN writes MSG: with other bytes there, every command
ends in the same state, and leaves those bytes alone. -/
def Obligations.NoCommandReadsBeyondMsgLen : Prop :=
  ∀ (i : Instr) (s : State) (m : Memory), (∀ n, n < s.msgLen.toNat → m.byte n = s.msg.byte n) →
    ∃ t u, exec i s = .next t ∧ exec i { s with msg := m } = .next u ∧ u = { t with msg := u.msg } ∧
      (∀ n, n < s.msgLen.toNat → u.msg.byte n = t.msg.byte n) ∧
      (∀ n, s.msgLen.toNat ≤ n → t.msg.byte n = s.msg.byte n ∧ u.msg.byte n = m.byte n) ∧
      ((∃ b, i = .openMsg b) ∨ (t.msg = s.msg ∧ u.msg = m))

/-- R88: the pseudo-instructions do what their names say, under the conditions of the table. -/
def Obligations.PseudoInstructionsDoWhatTheyName : Prop :=
  ∀ s : State,
    (∀ d a, ∃ t, execList (Pseudo.fdbl d a).expand s = .next t ∧
      Encodes (t.slot d) (2 * fieldValue (s.slot a) % (2 ^ 255 - 19))) ∧
    (∀ d a, ∃ t, execList (Pseudo.fmov d a).expand s = .next t ∧ Encodes (t.slot d) (fieldValue (s.slot a))) ∧
    (∀ d a q, s.point a = some q → OnCurve q →
      ∃ t, execList (Pseudo.pmov d a).expand s = .next t ∧ t.err = .ok ∧ t.point d = some q) ∧
    (∀ d a b q r, (Pseudo.psub d a b).operandsOk = true → s.point a = some q → s.point b = some r → OnCurve q → OnCurve r →
      ∃ t u, execList (Pseudo.psub d a b).expand s = .next t ∧ t.err = .ok ∧ t.point d = some u ∧ OnCurve u ∧ u.add r = q) ∧
    (∀ d i, leValue (s.slot i) = 1 →
      ∃ t, execList (Pseudo.pldb d i).expand s = .next t ∧ t.point d = some basePoint) ∧
    (∀ d i, leValue (s.slot i) = 0 →
      ∃ t, execList (Pseudo.pldo d i).expand s = .next t ∧ t.point d = some ⟨0, 1⟩)
end

