-- ==== Sys2Proof/Laws/Bytes.lean ====
section
/-!
SUPPORT. Byte strings: LE of the bytes of a slot is its value as a number, the halves of a 64-byte string, the word
writes of the bus, and the bounds of the clamped scalar.
-/

namespace Sys2Proof.Machine

@[simp] theorem length_bytesOf {n : Nat} (k : Nat) (w : BitVec n) : (bytesOf k w).length = k := by
  simp [bytesOf]

@[simp] theorem length_slotBytes (w : Slot) : (slotBytes w).length = 32 := length_bytesOf 32 w

theorem toNat_byteAt {n : Nat} (w : BitVec n) (j : Nat) : (byteAt w j).toNat = w.toNat / 2 ^ (8 * j) % 2 ^ 8 := by
  simp [byteAt, BitVec.extractLsb'_toNat, Nat.shiftRight_eq_div_pow]

theorem getLsbD_byteAt {n : Nat} (w : BitVec n) (j i : Nat) :
    (byteAt w j).getLsbD i = (decide (i < 8) && w.getLsbD (8 * j + i)) := by
  simp [byteAt]

theorem leNat_append (as bs : List Byte) : leNat (as ++ bs) = leNat as + 256 ^ as.length * leNat bs := by
  induction as with
  | nil => simp [leNat]
  | cons a as ih => simp only [List.cons_append, leNat, ih, List.length_cons, pow_succ]; ring

theorem leNat_lt (bs : List Byte) : leNat bs < 256 ^ bs.length := by
  induction bs with
  | nil => simp [leNat]
  | cons b bs ih =>
    have := b.isLt
    simp only [leNat, List.length_cons, pow_succ]
    omega

/-- LE of the first k bytes of a string is its value modulo 256^k. -/
theorem leNat_bytesOf {n : Nat} (k : Nat) (w : BitVec n) : leNat (bytesOf k w) = w.toNat % 256 ^ k := by
  induction k with
  | zero => simp [bytesOf, leNat, Nat.mod_one]
  | succ k ih =>
    have hb : bytesOf (k + 1) w = bytesOf k w ++ [byteAt w k] := by simp [bytesOf, List.range_succ]
    rw [hb, leNat_append, ih, length_bytesOf]
    have hp : (2 : Nat) ^ (8 * k) = 256 ^ k := by rw [pow_mul]; norm_num
    rw [leNat, leNat, toNat_byteAt, hp, Nat.mul_zero, Nat.add_zero, pow_succ 256 k, Nat.mod_mul]
    norm_num

theorem leNat_slotBytes (w : Slot) : leNat (slotBytes w) = w.toNat := by
  rw [slotBytes, leNat_bytesOf, Nat.mod_eq_of_lt]
  exact lt_of_lt_of_eq w.isLt (by norm_num)

theorem leNat_map_range (f : Nat → Byte) (k : Nat) :
    leNat ((List.range k).map f) = ∑ j ∈ Finset.range k, (f j).toNat * 256 ^ j := by
  induction k with
  | zero => simp [leNat]
  | succ k ih => simp [List.range_succ, leNat_append, ih, leNat, Finset.sum_range_succ, Nat.mul_comm]

/-- The sum of R8 over the bytes of a slot is its value as a number. -/
theorem leValue_eq (w : Slot) : leValue w = w.toNat := by
  rw [← leNat_slotBytes, leValue, slotBytes, bytesOf, leNat_map_range]

theorem fieldValue_eq (w : Slot) : fieldValue w = fd w := by
  rw [fieldValue, leValue_eq, fd]
  rfl

/-! ### Halves -/

theorem getLsbD_join (a b : Slot) (i : Nat) :
    (join a b).getLsbD i = if i < 256 then a.getLsbD i else b.getLsbD (i - 256) :=
  (BitVec.getLsbD_append (x := b) (y := a)).trans (by simp)

theorem getLsbD_firstHalf (w : Bytes64) (i : Nat) : (firstHalf w).getLsbD i = (decide (i < 256) && w.getLsbD i) := by
  simp [firstHalf]

theorem getLsbD_secondHalf (w : Bytes64) (i : Nat) :
    (secondHalf w).getLsbD i = (decide (i < 256) && w.getLsbD (256 + i)) := by
  simp [secondHalf]

@[simp] theorem firstHalf_join (a b : Slot) : firstHalf (join a b) = a :=
  BitVec.eq_of_getLsbD_eq fun i hi => by simp only [getLsbD_firstHalf, getLsbD_join, hi]; simp

@[simp] theorem secondHalf_join (a b : Slot) : secondHalf (join a b) = b :=
  BitVec.eq_of_getLsbD_eq fun i hi => by simp only [getLsbD_secondHalf, getLsbD_join, hi]; simp

@[simp] theorem join_halves (w : Bytes64) : join (firstHalf w) (secondHalf w) = w :=
  BitVec.eq_of_getLsbD_eq fun i hi => by
    rw [getLsbD_join, getLsbD_firstHalf, getLsbD_secondHalf]
    split
    · simp [*]
    · simp [show i - 256 < 256 by omega, show 256 + (i - 256) = i by omega]

theorem toNat_join (a b : Slot) : (join a b).toNat = a.toNat + 2 ^ 256 * b.toNat := by
  have h : (join a b).toNat = b.toNat <<< 256 ||| a.toNat := BitVec.toNat_append b a
  rw [h, ← Nat.shiftLeft_add_eq_or_of_lt a.isLt, Nat.shiftLeft_eq]
  ring

/-! ### Encodings -/

theorem toNat_leb32 {v : Nat} (h : v < 2 ^ 256) : (leb32 v).toNat = v := by
  rw [leb32, BitVec.toNat_ofNat, Nat.mod_eq_of_lt h]

/-! ### Words of a slot (R53, R54) -/

theorem getLsbD_setSlotWord (w : Slot) (m : Fin 8) (v : Word) (k : Nat) (hk : k < 256) :
    (setSlotWord w m.val v).getLsbD k =
      if 32 * m.val ≤ k ∧ k < 32 * m.val + 32 then v.getLsbD (k - 32 * m.val) else w.getLsbD k := by
  have hm := m.isLt
  have hmask : ∀ i, (BitVec.ofNat 256 0xFFFFFFFF).getLsbD i = decide (i < 32) := by
    intro i
    by_cases hi : i < 256
    · rw [BitVec.getLsbD_ofNat, show (0xFFFFFFFF : Nat) = 2 ^ 32 - 1 by norm_num, Nat.testBit_two_pow_sub_one]
      simp [hi]
    · rw [BitVec.getLsbD_of_ge _ _ (by omega)]; simp; omega
  unfold setSlotWord
  simp only [BitVec.getLsbD_or, BitVec.getLsbD_and, BitVec.getLsbD_not, BitVec.getLsbD_shiftLeft, hmask,
    BitVec.getLsbD_setWidth, hk, decide_true, Bool.true_and]
  by_cases h1 : 32 * m.val ≤ k
  · by_cases h2 : k < 32 * m.val + 32
    · simp [h1, h2, show ¬ k < 32 * m.val by omega, show k - 32 * m.val < 32 by omega,
        show k - 32 * m.val < 256 by omega]
    · have : v.getLsbD (k - 32 * m.val) = false := BitVec.getLsbD_of_ge _ _ (by omega)
      simp [h1, h2, this, show ¬ k - 32 * m.val < 32 by omega]
  · simp [h1, show k < 32 * m.val by omega]

/-- Byte j of a slot after a word write: the word's byte inside the word, the old byte outside it. -/
theorem byteAt_setSlotWord (w : Slot) (m : Fin 8) (v : Word) (j : Fin 32) :
    byteAt (setSlotWord w m.val v) j.val = if j.val / 4 = m.val then byteAt v (j.val % 4) else byteAt w j.val := by
  have hj := j.isLt
  have hm := m.isLt
  apply BitVec.eq_of_getLsbD_eq
  intro i hi
  rw [getLsbD_byteAt, getLsbD_setSlotWord _ _ _ _ (by omega)]
  by_cases h : j.val / 4 = m.val
  · rw [if_pos (by omega), if_pos h, getLsbD_byteAt, show 8 * j.val + i - 32 * m.val = 8 * (j.val % 4) + i by omega]
  · rw [if_neg (by omega), if_neg h, getLsbD_byteAt]

/-! ### Clamping (R5) -/

theorem getLsbD_clamp (b : Slot) (k : Nat) (hk : k < 256) :
    (clamp b).getLsbD k = if k < 3 then false else if k = 255 then false else if k = 254 then true else b.getLsbD k := by
  have h1 : ∀ i, i < 256 → (BitVec.ofNat 256 (0x80 * 2 ^ 248 + 7)).getLsbD i = (decide (i < 3) || decide (i = 255)) := by
    decide +kernel
  have h2 : ∀ i, i < 256 → (BitVec.ofNat 256 (0x40 * 2 ^ 248)).getLsbD i = decide (i = 254) := by
    decide +kernel
  unfold clamp
  simp only [BitVec.getLsbD_or, BitVec.getLsbD_and, BitVec.getLsbD_not, hk, decide_true, Bool.true_and, h1 k hk, h2 k hk]
  split_ifs <;> first | (simp_all; done) | (simp_all; omega)

end Sys2Proof.Machine
end

