-- ==== Sys2Proof/Laws/Memory.lean ====
section
/-!
SUPPORT. The message RAM: a read after a write, and every operation keeps the canonical form.
-/

namespace Sys2Proof.Machine

/-! ### The lists of cells -/

theorem cellsRead?_cellsWrite (cs : List Host.Cell) (n m : Nat) (b : Byte) :
    cellsRead? (cellsWrite cs n b) m = if m = n then some b else cellsRead? cs m := by
  induction cs with
  | nil => simp [cellsWrite, cellsRead?, eq_comm]
  | cons c rest ih =>
    obtain ⟨k, c⟩ := c
    unfold cellsWrite
    split_ifs with h1 h2 h3 h4 h5 <;> simp only [cellsRead?] at * <;> split_ifs <;> first | rfl | omega | simp_all

theorem mem_cellsWrite {cs : List Host.Cell} {n : Nat} {b : Byte} {c : Host.Cell} (h : c ∈ cellsWrite cs n b) :
    c = (n, b) ∨ c ∈ cs := by
  induction cs with
  | nil => simpa [cellsWrite] using h
  | cons e rest ih =>
    obtain ⟨k, e⟩ := e
    unfold cellsWrite at h
    split_ifs at h <;> simp only [List.mem_cons] at h ⊢ <;> tauto

theorem rising_cellsWrite {cs : List Host.Cell} {n : Nat} {b : Byte} (h : cs.Pairwise (fun a b => a.1 < b.1)) :
    (cellsWrite cs n b).Pairwise (fun a b => a.1 < b.1) := by
  induction cs with
  | nil => simp [cellsWrite]
  | cons e rest ih =>
    obtain ⟨k, e⟩ := e
    rw [List.pairwise_cons] at h
    unfold cellsWrite
    split_ifs with h1 h2
    · refine List.pairwise_cons.2 ⟨fun c hc => ?_, ih h.2⟩
      rcases mem_cellsWrite hc with rfl | hc
      · exact h1
      · exact h.1 c hc
    · exact List.pairwise_cons.2 ⟨fun c hc => h2 ▸ h.1 c hc, h.2⟩
    · refine List.pairwise_cons.2 ⟨fun c hc => ?_, List.pairwise_cons.2 h⟩
      rcases List.mem_cons.1 hc with rfl | hc
      · show n < k; omega
      · have := h.1 c hc; show n < c.1; simp only at this; omega

/-! ### Bytes -/

@[simp] theorem Memory.write_powerOns (m : Memory) (n : Nat) (b : Byte) : (m.write n b).powerOns = m.powerOns := rfl

theorem Memory.byte_write (m : Memory) (n k : Nat) (b : Byte) :
    (m.write n b).byte k = if k = n then b else m.byte k := by
  simp only [Memory.byte, Memory.read?, Memory.write, cellsRead?_cellsWrite]
  split <;> rfl

@[simp] theorem Memory.memWrite_nil (m : Memory) (n : Nat) : m.memWrite n [] = m := rfl

theorem Memory.memWrite_cons (m : Memory) (n : Nat) (b : Byte) (bs : List Byte) :
    m.memWrite n (b :: bs) = (m.write n b).memWrite (n + 1) bs := rfl

/-- A byte outside the written range reads as before; inside it, as the byte written there. -/
theorem Memory.byte_memWrite (m : Memory) (n k : Nat) (bs : List Byte) :
    (m.memWrite n bs).byte k = if n ≤ k ∧ k < n + bs.length then bs.getD (k - n) 0 else m.byte k := by
  induction bs generalizing m n with
  | nil => simp
  | cons b bs ih =>
    rw [Memory.memWrite_cons, ih, Memory.byte_write, List.length_cons]
    by_cases hk : k = n
    · subst hk; simp
    · rw [if_neg hk]
      by_cases h1 : n + 1 ≤ k ∧ k < n + 1 + bs.length
      · rw [if_pos h1, if_pos (by omega), show k - n = (k - (n + 1)) + 1 by omega, List.getD_cons_succ]
      · rw [if_neg h1, if_neg (by omega)]

@[simp] theorem Memory.memWrite_powerOns (m : Memory) (n : Nat) (bs : List Byte) :
    (m.memWrite n bs).powerOns = m.powerOns := by
  induction bs generalizing m n with
  | nil => rfl
  | cons b bs ih => rw [Memory.memWrite_cons, ih, Memory.write_powerOns]

@[simp] theorem Memory.length_memRead (m : Memory) (n k : Nat) : (m.memRead n k).length = k := by
  simp [Memory.memRead]

theorem Memory.memRead_congr {m m' : Memory} {n k : Nat} (h : ∀ j, j < k → m.byte (n + j) = m'.byte (n + j)) :
    m.memRead n k = m'.memRead n k := by
  simp only [Memory.memRead]
  exact List.map_congr_left fun j hj => h j (List.mem_range.1 hj)

/-! ### Words (R54, R55) -/

/-- Byte k of a message word is byte n + k of the RAM. -/
theorem byteAt_readWord (m : Memory) (n k : Nat) (hk : k < 4) : byteAt (m.readWord n) k = m.byte (n + k) := by
  apply BitVec.eq_of_getLsbD_eq
  intro j hj
  rw [getLsbD_byteAt]
  simp only [Memory.readWord, BitVec.getLsbD_append]
  match k, hk with
  | 0, _ => simp [hj]
  | 1, _ => simp [hj]
  | 2, _ => simp [hj, show ¬ 16 + j < 8 by omega, show ¬ 16 + j - 8 < 8 by omega, show 16 + j - 8 - 8 = j by omega]
  | 3, _ =>
    simp [hj, show ¬ 24 + j < 8 by omega, show ¬ 24 + j - 8 < 8 by omega, show ¬ 24 + j - 8 - 8 < 8 by omega,
      show 24 + j - 8 - 8 - 8 = j by omega]

/-- A byte of the RAM after a word write. -/
theorem byte_writeWord (m : Memory) (n k : Nat) (v : Word) :
    (m.writeWord n v).byte k = if n ≤ k ∧ k < n + 4 then byteAt v (k - n) else m.byte k := by
  unfold Memory.writeWord
  rw [Memory.byte_memWrite, length_bytesOf]
  split
  · rename_i h
    rw [bytesOf, List.getD_eq_getElem _ _ (by simp; omega)]
    simp
  · rfl

/-! ### The canonical form -/

theorem Memory.wf_write {size n : Nat} {m : Memory} {b : Byte} (h : m.wf size) (hn : n < size) :
    (m.write n b).wf size :=
  ⟨rising_cellsWrite h.1, fun c hc => by
    rcases mem_cellsWrite hc with rfl | hc
    · exact hn
    · exact h.2 c hc⟩

theorem Memory.wf_memWrite {size n : Nat} {m : Memory} {bs : List Byte} (h : m.wf size) (hn : n + bs.length ≤ size) :
    (m.memWrite n bs).wf size := by
  induction bs generalizing m n with
  | nil => exact h
  | cons b bs ih =>
    rw [List.length_cons] at hn
    exact ih (Memory.wf_write h (by omega)) (by omega)

theorem Memory.wf_writeWord {size n : Nat} {m : Memory} {v : Word} (h : m.wf size) (hn : n + 4 ≤ size) :
    (m.writeWord n v).wf size :=
  Memory.wf_memWrite h (by simpa [bytesOf] using hn)

theorem Memory.wf_empty (size k : Nat) : Memory.wf size ⟨k, []⟩ := by simp [Memory.wf]

end Sys2Proof.Machine
end

