-- ==== Sys2Proof/Laws/State.lean ====
section
/-!
SUPPORT. One lemma per field per update of the state, true by rfl, and the reads of slots, pairs and point registers
after each write.
-/

namespace Sys2Proof.Machine

/-! ### setSlot -/

@[simp] theorem State.setSlot_params (s : State) (i : SlotIx) (v : Slot) : (s.setSlot i v).params = s.params := rfl
@[simp] theorem State.setSlot_cmd (s : State) (i : SlotIx) (v : Slot) : (s.setSlot i v).cmd = s.cmd := rfl
@[simp] theorem State.setSlot_engine (s : State) (i : SlotIx) (v : Slot) : (s.setSlot i v).engine = s.engine := rfl
@[simp] theorem State.setSlot_done (s : State) (i : SlotIx) (v : Slot) : (s.setSlot i v).done = s.done := rfl
@[simp] theorem State.setSlot_err (s : State) (i : SlotIx) (v : Slot) : (s.setSlot i v).err = s.err := rfl
@[simp] theorem State.setSlot_valid (s : State) (i : SlotIx) (v : Slot) : (s.setSlot i v).valid = s.valid := rfl
@[simp] theorem State.setSlot_z0 (s : State) (i : SlotIx) (v : Slot) : (s.setSlot i v).z0 = s.z0 := rfl
@[simp] theorem State.setSlot_ovf (s : State) (i : SlotIx) (v : Slot) : (s.setSlot i v).ovf = s.ovf := rfl
@[simp] theorem State.setSlot_ie (s : State) (i : SlotIx) (v : Slot) : (s.setSlot i v).ie = s.ie := rfl
@[simp] theorem State.setSlot_msgLen (s : State) (i : SlotIx) (v : Slot) : (s.setSlot i v).msgLen = s.msgLen := rfl
@[simp] theorem State.setSlot_outLen (s : State) (i : SlotIx) (v : Slot) : (s.setSlot i v).outLen = s.outLen := rfl
@[simp] theorem State.setSlot_slots (s : State) (i : SlotIx) (v : Slot) : (s.setSlot i v).slots = s.slots.set i v := rfl
@[simp] theorem State.setSlot_points (s : State) (i : SlotIx) (v : Slot) : (s.setSlot i v).points = s.points := rfl
@[simp] theorem State.setSlot_msg (s : State) (i : SlotIx) (v : Slot) : (s.setSlot i v).msg = s.msg := rfl
@[simp] theorem State.setSlot_events (s : State) (i : SlotIx) (v : Slot) : (s.setSlot i v).events = s.events := rfl
@[simp] theorem State.setSlot_response (s : State) (i : SlotIx) (v : Slot) : (s.setSlot i v).response = s.response := rfl
@[simp] theorem State.setSlot_point (s : State) (i : SlotIx) (v : Slot) (k : PointIx) : (s.setSlot i v).point k = s.point k := rfl
@[simp] theorem State.setSlot_busy (s : State) (i : SlotIx) (v : Slot) : (s.setSlot i v).busy = s.busy := rfl

/-! ### setPair -/

@[simp] theorem State.setPair_params (s : State) (h : PairIx) (v : Bytes64) : (s.setPair h v).params = s.params := rfl
@[simp] theorem State.setPair_cmd (s : State) (h : PairIx) (v : Bytes64) : (s.setPair h v).cmd = s.cmd := rfl
@[simp] theorem State.setPair_engine (s : State) (h : PairIx) (v : Bytes64) : (s.setPair h v).engine = s.engine := rfl
@[simp] theorem State.setPair_done (s : State) (h : PairIx) (v : Bytes64) : (s.setPair h v).done = s.done := rfl
@[simp] theorem State.setPair_err (s : State) (h : PairIx) (v : Bytes64) : (s.setPair h v).err = s.err := rfl
@[simp] theorem State.setPair_valid (s : State) (h : PairIx) (v : Bytes64) : (s.setPair h v).valid = s.valid := rfl
@[simp] theorem State.setPair_z0 (s : State) (h : PairIx) (v : Bytes64) : (s.setPair h v).z0 = s.z0 := rfl
@[simp] theorem State.setPair_ovf (s : State) (h : PairIx) (v : Bytes64) : (s.setPair h v).ovf = s.ovf := rfl
@[simp] theorem State.setPair_ie (s : State) (h : PairIx) (v : Bytes64) : (s.setPair h v).ie = s.ie := rfl
@[simp] theorem State.setPair_msgLen (s : State) (h : PairIx) (v : Bytes64) : (s.setPair h v).msgLen = s.msgLen := rfl
@[simp] theorem State.setPair_outLen (s : State) (h : PairIx) (v : Bytes64) : (s.setPair h v).outLen = s.outLen := rfl
@[simp] theorem State.setPair_points (s : State) (h : PairIx) (v : Bytes64) : (s.setPair h v).points = s.points := rfl
@[simp] theorem State.setPair_msg (s : State) (h : PairIx) (v : Bytes64) : (s.setPair h v).msg = s.msg := rfl
@[simp] theorem State.setPair_events (s : State) (h : PairIx) (v : Bytes64) : (s.setPair h v).events = s.events := rfl
@[simp] theorem State.setPair_response (s : State) (h : PairIx) (v : Bytes64) : (s.setPair h v).response = s.response := rfl
@[simp] theorem State.setPair_point (s : State) (h : PairIx) (v : Bytes64) (k : PointIx) : (s.setPair h v).point k = s.point k := rfl
@[simp] theorem State.setPair_busy (s : State) (h : PairIx) (v : Bytes64) : (s.setPair h v).busy = s.busy := rfl

/-! ### setPoint -/

@[simp] theorem State.setPoint_params (s : State) (j : PointIx) (q : Point) : (s.setPoint j q).params = s.params := rfl
@[simp] theorem State.setPoint_cmd (s : State) (j : PointIx) (q : Point) : (s.setPoint j q).cmd = s.cmd := rfl
@[simp] theorem State.setPoint_engine (s : State) (j : PointIx) (q : Point) : (s.setPoint j q).engine = s.engine := rfl
@[simp] theorem State.setPoint_done (s : State) (j : PointIx) (q : Point) : (s.setPoint j q).done = s.done := rfl
@[simp] theorem State.setPoint_err (s : State) (j : PointIx) (q : Point) : (s.setPoint j q).err = s.err := rfl
@[simp] theorem State.setPoint_valid (s : State) (j : PointIx) (q : Point) : (s.setPoint j q).valid = s.valid := rfl
@[simp] theorem State.setPoint_z0 (s : State) (j : PointIx) (q : Point) : (s.setPoint j q).z0 = s.z0 := rfl
@[simp] theorem State.setPoint_ovf (s : State) (j : PointIx) (q : Point) : (s.setPoint j q).ovf = s.ovf := rfl
@[simp] theorem State.setPoint_ie (s : State) (j : PointIx) (q : Point) : (s.setPoint j q).ie = s.ie := rfl
@[simp] theorem State.setPoint_msgLen (s : State) (j : PointIx) (q : Point) : (s.setPoint j q).msgLen = s.msgLen := rfl
@[simp] theorem State.setPoint_outLen (s : State) (j : PointIx) (q : Point) : (s.setPoint j q).outLen = s.outLen := rfl
@[simp] theorem State.setPoint_slots (s : State) (j : PointIx) (q : Point) : (s.setPoint j q).slots = s.slots := rfl
@[simp] theorem State.setPoint_points (s : State) (j : PointIx) (q : Point) : (s.setPoint j q).points = s.points.set j (some q) := rfl
@[simp] theorem State.setPoint_msg (s : State) (j : PointIx) (q : Point) : (s.setPoint j q).msg = s.msg := rfl
@[simp] theorem State.setPoint_events (s : State) (j : PointIx) (q : Point) : (s.setPoint j q).events = s.events := rfl
@[simp] theorem State.setPoint_response (s : State) (j : PointIx) (q : Point) : (s.setPoint j q).response = s.response := rfl
@[simp] theorem State.setPoint_slot (s : State) (j : PointIx) (q : Point) (k : SlotIx) : (s.setPoint j q).slot k = s.slot k := rfl
@[simp] theorem State.setPoint_busy (s : State) (j : PointIx) (q : Point) : (s.setPoint j q).busy = s.busy := rfl

/-! ### clearFlags -/

@[simp] theorem State.clearFlags_params (s : State) : (s.clearFlags).params = s.params := rfl
@[simp] theorem State.clearFlags_cmd (s : State) : (s.clearFlags).cmd = s.cmd := rfl
@[simp] theorem State.clearFlags_engine (s : State) : (s.clearFlags).engine = s.engine := rfl
@[simp] theorem State.clearFlags_done (s : State) : (s.clearFlags).done = false := rfl
@[simp] theorem State.clearFlags_err (s : State) : (s.clearFlags).err = s.err := rfl
@[simp] theorem State.clearFlags_valid (s : State) : (s.clearFlags).valid = s.valid := rfl
@[simp] theorem State.clearFlags_z0 (s : State) : (s.clearFlags).z0 = false := rfl
@[simp] theorem State.clearFlags_ovf (s : State) : (s.clearFlags).ovf = false := rfl
@[simp] theorem State.clearFlags_ie (s : State) : (s.clearFlags).ie = s.ie := rfl
@[simp] theorem State.clearFlags_msgLen (s : State) : (s.clearFlags).msgLen = s.msgLen := rfl
@[simp] theorem State.clearFlags_outLen (s : State) : (s.clearFlags).outLen = s.outLen := rfl
@[simp] theorem State.clearFlags_slots (s : State) : (s.clearFlags).slots = s.slots := rfl
@[simp] theorem State.clearFlags_points (s : State) : (s.clearFlags).points = s.points := rfl
@[simp] theorem State.clearFlags_msg (s : State) : (s.clearFlags).msg = s.msg := rfl
@[simp] theorem State.clearFlags_events (s : State) : (s.clearFlags).events = s.events := rfl
@[simp] theorem State.clearFlags_response (s : State) : (s.clearFlags).response = s.response := rfl
@[simp] theorem State.clearFlags_slot (s : State) (k : SlotIx) : (s.clearFlags).slot k = s.slot k := rfl
@[simp] theorem State.clearFlags_point (s : State) (k : PointIx) : (s.clearFlags).point k = s.point k := rfl
@[simp] theorem State.clearFlags_busy (s : State) : (s.clearFlags).busy = s.busy := rfl

/-! ### acceptFlags -/

@[simp] theorem State.acceptFlags_params (s : State) : (s.acceptFlags).params = s.params := rfl
@[simp] theorem State.acceptFlags_cmd (s : State) : (s.acceptFlags).cmd = s.cmd := rfl
@[simp] theorem State.acceptFlags_engine (s : State) : (s.acceptFlags).engine = s.engine := rfl
@[simp] theorem State.acceptFlags_done (s : State) : (s.acceptFlags).done = false := rfl
@[simp] theorem State.acceptFlags_err (s : State) : (s.acceptFlags).err = .ok := rfl
@[simp] theorem State.acceptFlags_valid (s : State) : (s.acceptFlags).valid = false := rfl
@[simp] theorem State.acceptFlags_z0 (s : State) : (s.acceptFlags).z0 = s.z0 := rfl
@[simp] theorem State.acceptFlags_ovf (s : State) : (s.acceptFlags).ovf = s.ovf := rfl
@[simp] theorem State.acceptFlags_ie (s : State) : (s.acceptFlags).ie = s.ie := rfl
@[simp] theorem State.acceptFlags_msgLen (s : State) : (s.acceptFlags).msgLen = s.msgLen := rfl
@[simp] theorem State.acceptFlags_outLen (s : State) : (s.acceptFlags).outLen = s.outLen := rfl
@[simp] theorem State.acceptFlags_slots (s : State) : (s.acceptFlags).slots = s.slots := rfl
@[simp] theorem State.acceptFlags_points (s : State) : (s.acceptFlags).points = s.points := rfl
@[simp] theorem State.acceptFlags_msg (s : State) : (s.acceptFlags).msg = s.msg := rfl
@[simp] theorem State.acceptFlags_events (s : State) : (s.acceptFlags).events = s.events := rfl
@[simp] theorem State.acceptFlags_response (s : State) : (s.acceptFlags).response = s.response := rfl
@[simp] theorem State.acceptFlags_slot (s : State) (k : SlotIx) : (s.acceptFlags).slot k = s.slot k := rfl
@[simp] theorem State.acceptFlags_point (s : State) (k : PointIx) : (s.acceptFlags).point k = s.point k := rfl
@[simp] theorem State.acceptFlags_busy (s : State) : (s.acceptFlags).busy = s.busy := rfl

/-! ### completeFlags -/

@[simp] theorem State.completeFlags_params (s : State) (e : ErrCode) : (s.completeFlags e).params = s.params := rfl
@[simp] theorem State.completeFlags_cmd (s : State) (e : ErrCode) : (s.completeFlags e).cmd = s.cmd := rfl
@[simp] theorem State.completeFlags_engine (s : State) (e : ErrCode) : (s.completeFlags e).engine = s.engine := rfl
@[simp] theorem State.completeFlags_done (s : State) (e : ErrCode) : (s.completeFlags e).done = true := rfl
@[simp] theorem State.completeFlags_err (s : State) (e : ErrCode) : (s.completeFlags e).err = e := rfl
@[simp] theorem State.completeFlags_valid (s : State) (e : ErrCode) : (s.completeFlags e).valid = s.valid := rfl
@[simp] theorem State.completeFlags_z0 (s : State) (e : ErrCode) : (s.completeFlags e).z0 = s.z0 := rfl
@[simp] theorem State.completeFlags_ovf (s : State) (e : ErrCode) : (s.completeFlags e).ovf = s.ovf := rfl
@[simp] theorem State.completeFlags_ie (s : State) (e : ErrCode) : (s.completeFlags e).ie = s.ie := rfl
@[simp] theorem State.completeFlags_msgLen (s : State) (e : ErrCode) : (s.completeFlags e).msgLen = s.msgLen := rfl
@[simp] theorem State.completeFlags_outLen (s : State) (e : ErrCode) : (s.completeFlags e).outLen = s.outLen := rfl
@[simp] theorem State.completeFlags_slots (s : State) (e : ErrCode) : (s.completeFlags e).slots = s.slots := rfl
@[simp] theorem State.completeFlags_points (s : State) (e : ErrCode) : (s.completeFlags e).points = s.points := rfl
@[simp] theorem State.completeFlags_msg (s : State) (e : ErrCode) : (s.completeFlags e).msg = s.msg := rfl
@[simp] theorem State.completeFlags_events (s : State) (e : ErrCode) : (s.completeFlags e).events = s.events := rfl
@[simp] theorem State.completeFlags_response (s : State) (e : ErrCode) : (s.completeFlags e).response = s.response := rfl
@[simp] theorem State.completeFlags_slot (s : State) (e : ErrCode) (k : SlotIx) : (s.completeFlags e).slot k = s.slot k := rfl
@[simp] theorem State.completeFlags_point (s : State) (e : ErrCode) (k : PointIx) : (s.completeFlags e).point k = s.point k := rfl
@[simp] theorem State.completeFlags_busy (s : State) (e : ErrCode) : (s.completeFlags e).busy = s.busy := rfl

/-! ### setOvf -/

@[simp] theorem State.setOvf_params (s : State) : (s.setOvf).params = s.params := rfl
@[simp] theorem State.setOvf_cmd (s : State) : (s.setOvf).cmd = s.cmd := rfl
@[simp] theorem State.setOvf_engine (s : State) : (s.setOvf).engine = s.engine := rfl
@[simp] theorem State.setOvf_done (s : State) : (s.setOvf).done = s.done := rfl
@[simp] theorem State.setOvf_err (s : State) : (s.setOvf).err = s.err := rfl
@[simp] theorem State.setOvf_valid (s : State) : (s.setOvf).valid = s.valid := rfl
@[simp] theorem State.setOvf_z0 (s : State) : (s.setOvf).z0 = s.z0 := rfl
@[simp] theorem State.setOvf_ovf (s : State) : (s.setOvf).ovf = true := rfl
@[simp] theorem State.setOvf_ie (s : State) : (s.setOvf).ie = s.ie := rfl
@[simp] theorem State.setOvf_msgLen (s : State) : (s.setOvf).msgLen = s.msgLen := rfl
@[simp] theorem State.setOvf_outLen (s : State) : (s.setOvf).outLen = s.outLen := rfl
@[simp] theorem State.setOvf_slots (s : State) : (s.setOvf).slots = s.slots := rfl
@[simp] theorem State.setOvf_points (s : State) : (s.setOvf).points = s.points := rfl
@[simp] theorem State.setOvf_msg (s : State) : (s.setOvf).msg = s.msg := rfl
@[simp] theorem State.setOvf_events (s : State) : (s.setOvf).events = s.events := rfl
@[simp] theorem State.setOvf_response (s : State) : (s.setOvf).response = s.response := rfl
@[simp] theorem State.setOvf_slot (s : State) (k : SlotIx) : (s.setOvf).slot k = s.slot k := rfl
@[simp] theorem State.setOvf_point (s : State) (k : PointIx) : (s.setOvf).point k = s.point k := rfl
@[simp] theorem State.setOvf_busy (s : State) : (s.setOvf).busy = s.busy := rfl

/-! ### setZ0If -/

@[simp] theorem State.setZ0If_params (s : State) (c : Bool) : (s.setZ0If c).params = s.params := rfl
@[simp] theorem State.setZ0If_cmd (s : State) (c : Bool) : (s.setZ0If c).cmd = s.cmd := rfl
@[simp] theorem State.setZ0If_engine (s : State) (c : Bool) : (s.setZ0If c).engine = s.engine := rfl
@[simp] theorem State.setZ0If_done (s : State) (c : Bool) : (s.setZ0If c).done = s.done := rfl
@[simp] theorem State.setZ0If_err (s : State) (c : Bool) : (s.setZ0If c).err = s.err := rfl
@[simp] theorem State.setZ0If_valid (s : State) (c : Bool) : (s.setZ0If c).valid = s.valid := rfl
@[simp] theorem State.setZ0If_z0 (s : State) (c : Bool) : (s.setZ0If c).z0 = (s.z0 || c) := rfl
@[simp] theorem State.setZ0If_ovf (s : State) (c : Bool) : (s.setZ0If c).ovf = s.ovf := rfl
@[simp] theorem State.setZ0If_ie (s : State) (c : Bool) : (s.setZ0If c).ie = s.ie := rfl
@[simp] theorem State.setZ0If_msgLen (s : State) (c : Bool) : (s.setZ0If c).msgLen = s.msgLen := rfl
@[simp] theorem State.setZ0If_outLen (s : State) (c : Bool) : (s.setZ0If c).outLen = s.outLen := rfl
@[simp] theorem State.setZ0If_slots (s : State) (c : Bool) : (s.setZ0If c).slots = s.slots := rfl
@[simp] theorem State.setZ0If_points (s : State) (c : Bool) : (s.setZ0If c).points = s.points := rfl
@[simp] theorem State.setZ0If_msg (s : State) (c : Bool) : (s.setZ0If c).msg = s.msg := rfl
@[simp] theorem State.setZ0If_events (s : State) (c : Bool) : (s.setZ0If c).events = s.events := rfl
@[simp] theorem State.setZ0If_response (s : State) (c : Bool) : (s.setZ0If c).response = s.response := rfl
@[simp] theorem State.setZ0If_slot (s : State) (c : Bool) (k : SlotIx) : (s.setZ0If c).slot k = s.slot k := rfl
@[simp] theorem State.setZ0If_point (s : State) (c : Bool) (k : PointIx) : (s.setZ0If c).point k = s.point k := rfl
@[simp] theorem State.setZ0If_busy (s : State) (c : Bool) : (s.setZ0If c).busy = s.busy := rfl

/-! ### setValid -/

@[simp] theorem State.setValid_params (s : State) (v : Bool) : (s.setValid v).params = s.params := rfl
@[simp] theorem State.setValid_cmd (s : State) (v : Bool) : (s.setValid v).cmd = s.cmd := rfl
@[simp] theorem State.setValid_engine (s : State) (v : Bool) : (s.setValid v).engine = s.engine := rfl
@[simp] theorem State.setValid_done (s : State) (v : Bool) : (s.setValid v).done = s.done := rfl
@[simp] theorem State.setValid_err (s : State) (v : Bool) : (s.setValid v).err = s.err := rfl
@[simp] theorem State.setValid_valid (s : State) (v : Bool) : (s.setValid v).valid = v := rfl
@[simp] theorem State.setValid_z0 (s : State) (v : Bool) : (s.setValid v).z0 = s.z0 := rfl
@[simp] theorem State.setValid_ovf (s : State) (v : Bool) : (s.setValid v).ovf = s.ovf := rfl
@[simp] theorem State.setValid_ie (s : State) (v : Bool) : (s.setValid v).ie = s.ie := rfl
@[simp] theorem State.setValid_msgLen (s : State) (v : Bool) : (s.setValid v).msgLen = s.msgLen := rfl
@[simp] theorem State.setValid_outLen (s : State) (v : Bool) : (s.setValid v).outLen = s.outLen := rfl
@[simp] theorem State.setValid_slots (s : State) (v : Bool) : (s.setValid v).slots = s.slots := rfl
@[simp] theorem State.setValid_points (s : State) (v : Bool) : (s.setValid v).points = s.points := rfl
@[simp] theorem State.setValid_msg (s : State) (v : Bool) : (s.setValid v).msg = s.msg := rfl
@[simp] theorem State.setValid_events (s : State) (v : Bool) : (s.setValid v).events = s.events := rfl
@[simp] theorem State.setValid_response (s : State) (v : Bool) : (s.setValid v).response = s.response := rfl
@[simp] theorem State.setValid_slot (s : State) (v : Bool) (k : SlotIx) : (s.setValid v).slot k = s.slot k := rfl
@[simp] theorem State.setValid_point (s : State) (v : Bool) (k : PointIx) : (s.setValid v).point k = s.point k := rfl
@[simp] theorem State.setValid_busy (s : State) (v : Bool) : (s.setValid v).busy = s.busy := rfl

/-! ### accept -/

@[simp] theorem State.accept_params (s : State) (w : Word) : (s.accept w).params = s.params := rfl
@[simp] theorem State.accept_cmd (s : State) (w : Word) : (s.accept w).cmd = w := rfl
@[simp] theorem State.accept_engine (s : State) (w : Word) : (s.accept w).engine = .busy w := rfl
@[simp] theorem State.accept_done (s : State) (w : Word) : (s.accept w).done = false := rfl
@[simp] theorem State.accept_err (s : State) (w : Word) : (s.accept w).err = .ok := rfl
@[simp] theorem State.accept_valid (s : State) (w : Word) : (s.accept w).valid = false := rfl
@[simp] theorem State.accept_z0 (s : State) (w : Word) : (s.accept w).z0 = s.z0 := rfl
@[simp] theorem State.accept_ovf (s : State) (w : Word) : (s.accept w).ovf = s.ovf := rfl
@[simp] theorem State.accept_ie (s : State) (w : Word) : (s.accept w).ie = s.ie := rfl
@[simp] theorem State.accept_msgLen (s : State) (w : Word) : (s.accept w).msgLen = s.msgLen := rfl
@[simp] theorem State.accept_outLen (s : State) (w : Word) : (s.accept w).outLen = s.outLen := rfl
@[simp] theorem State.accept_slots (s : State) (w : Word) : (s.accept w).slots = s.slots := rfl
@[simp] theorem State.accept_points (s : State) (w : Word) : (s.accept w).points = s.points := rfl
@[simp] theorem State.accept_msg (s : State) (w : Word) : (s.accept w).msg = s.msg := rfl
@[simp] theorem State.accept_events (s : State) (w : Word) : (s.accept w).events = s.events := rfl
@[simp] theorem State.accept_response (s : State) (w : Word) : (s.accept w).response = s.response := rfl
@[simp] theorem State.accept_slot (s : State) (w : Word) (k : SlotIx) : (s.accept w).slot k = s.slot k := rfl
@[simp] theorem State.accept_point (s : State) (w : Word) (k : PointIx) : (s.accept w).point k = s.point k := rfl

/-! ### complete -/

@[simp] theorem State.complete_params (s : State) (e : ErrCode) : (s.complete e).params = s.params := rfl
@[simp] theorem State.complete_cmd (s : State) (e : ErrCode) : (s.complete e).cmd = s.cmd := rfl
@[simp] theorem State.complete_engine (s : State) (e : ErrCode) : (s.complete e).engine = .idle := rfl
@[simp] theorem State.complete_done (s : State) (e : ErrCode) : (s.complete e).done = true := rfl
@[simp] theorem State.complete_err (s : State) (e : ErrCode) : (s.complete e).err = e := rfl
@[simp] theorem State.complete_valid (s : State) (e : ErrCode) : (s.complete e).valid = s.valid := rfl
@[simp] theorem State.complete_z0 (s : State) (e : ErrCode) : (s.complete e).z0 = s.z0 := rfl
@[simp] theorem State.complete_ovf (s : State) (e : ErrCode) : (s.complete e).ovf = s.ovf := rfl
@[simp] theorem State.complete_ie (s : State) (e : ErrCode) : (s.complete e).ie = s.ie := rfl
@[simp] theorem State.complete_msgLen (s : State) (e : ErrCode) : (s.complete e).msgLen = s.msgLen := rfl
@[simp] theorem State.complete_outLen (s : State) (e : ErrCode) : (s.complete e).outLen = s.outLen := rfl
@[simp] theorem State.complete_slots (s : State) (e : ErrCode) : (s.complete e).slots = s.slots := rfl
@[simp] theorem State.complete_points (s : State) (e : ErrCode) : (s.complete e).points = s.points := rfl
@[simp] theorem State.complete_msg (s : State) (e : ErrCode) : (s.complete e).msg = s.msg := rfl
@[simp] theorem State.complete_events (s : State) (e : ErrCode) : (s.complete e).events = s.events := rfl
@[simp] theorem State.complete_response (s : State) (e : ErrCode) : (s.complete e).response = s.response := rfl
@[simp] theorem State.complete_slot (s : State) (e : ErrCode) (k : SlotIx) : (s.complete e).slot k = s.slot k := rfl
@[simp] theorem State.complete_point (s : State) (e : ErrCode) (k : PointIx) : (s.complete e).point k = s.point k := rfl

/-! ### respond -/

@[simp] theorem State.respond_params (s : State) (r : BusResponse) : (s.respond r).params = s.params := rfl
@[simp] theorem State.respond_cmd (s : State) (r : BusResponse) : (s.respond r).cmd = s.cmd := rfl
@[simp] theorem State.respond_engine (s : State) (r : BusResponse) : (s.respond r).engine = s.engine := rfl
@[simp] theorem State.respond_done (s : State) (r : BusResponse) : (s.respond r).done = s.done := rfl
@[simp] theorem State.respond_err (s : State) (r : BusResponse) : (s.respond r).err = s.err := rfl
@[simp] theorem State.respond_valid (s : State) (r : BusResponse) : (s.respond r).valid = s.valid := rfl
@[simp] theorem State.respond_z0 (s : State) (r : BusResponse) : (s.respond r).z0 = s.z0 := rfl
@[simp] theorem State.respond_ovf (s : State) (r : BusResponse) : (s.respond r).ovf = s.ovf := rfl
@[simp] theorem State.respond_ie (s : State) (r : BusResponse) : (s.respond r).ie = s.ie := rfl
@[simp] theorem State.respond_msgLen (s : State) (r : BusResponse) : (s.respond r).msgLen = s.msgLen := rfl
@[simp] theorem State.respond_outLen (s : State) (r : BusResponse) : (s.respond r).outLen = s.outLen := rfl
@[simp] theorem State.respond_slots (s : State) (r : BusResponse) : (s.respond r).slots = s.slots := rfl
@[simp] theorem State.respond_points (s : State) (r : BusResponse) : (s.respond r).points = s.points := rfl
@[simp] theorem State.respond_msg (s : State) (r : BusResponse) : (s.respond r).msg = s.msg := rfl
@[simp] theorem State.respond_events (s : State) (r : BusResponse) : (s.respond r).events = s.events := rfl
@[simp] theorem State.respond_response (s : State) (r : BusResponse) : (s.respond r).response = some r := rfl
@[simp] theorem State.respond_slot (s : State) (r : BusResponse) (k : SlotIx) : (s.respond r).slot k = s.slot k := rfl
@[simp] theorem State.respond_point (s : State) (r : BusResponse) (k : PointIx) : (s.respond r).point k = s.point k := rfl
@[simp] theorem State.respond_busy (s : State) (r : BusResponse) : (s.respond r).busy = s.busy := rfl

/-! ### withEvents -/

@[simp] theorem State.withEvents_params (s : State) (es : List Event) : (s.withEvents es).params = s.params := rfl
@[simp] theorem State.withEvents_cmd (s : State) (es : List Event) : (s.withEvents es).cmd = s.cmd := rfl
@[simp] theorem State.withEvents_engine (s : State) (es : List Event) : (s.withEvents es).engine = s.engine := rfl
@[simp] theorem State.withEvents_done (s : State) (es : List Event) : (s.withEvents es).done = s.done := rfl
@[simp] theorem State.withEvents_err (s : State) (es : List Event) : (s.withEvents es).err = s.err := rfl
@[simp] theorem State.withEvents_valid (s : State) (es : List Event) : (s.withEvents es).valid = s.valid := rfl
@[simp] theorem State.withEvents_z0 (s : State) (es : List Event) : (s.withEvents es).z0 = s.z0 := rfl
@[simp] theorem State.withEvents_ovf (s : State) (es : List Event) : (s.withEvents es).ovf = s.ovf := rfl
@[simp] theorem State.withEvents_ie (s : State) (es : List Event) : (s.withEvents es).ie = s.ie := rfl
@[simp] theorem State.withEvents_msgLen (s : State) (es : List Event) : (s.withEvents es).msgLen = s.msgLen := rfl
@[simp] theorem State.withEvents_outLen (s : State) (es : List Event) : (s.withEvents es).outLen = s.outLen := rfl
@[simp] theorem State.withEvents_slots (s : State) (es : List Event) : (s.withEvents es).slots = s.slots := rfl
@[simp] theorem State.withEvents_points (s : State) (es : List Event) : (s.withEvents es).points = s.points := rfl
@[simp] theorem State.withEvents_msg (s : State) (es : List Event) : (s.withEvents es).msg = s.msg := rfl
@[simp] theorem State.withEvents_events (s : State) (es : List Event) : (s.withEvents es).events = es := rfl
@[simp] theorem State.withEvents_response (s : State) (es : List Event) : (s.withEvents es).response = s.response := rfl
@[simp] theorem State.withEvents_slot (s : State) (es : List Event) (k : SlotIx) : (s.withEvents es).slot k = s.slot k := rfl
@[simp] theorem State.withEvents_point (s : State) (es : List Event) (k : PointIx) : (s.withEvents es).point k = s.point k := rfl
@[simp] theorem State.withEvents_busy (s : State) (es : List Event) : (s.withEvents es).busy = s.busy := rfl

/-! ### resetWith -/

@[simp] theorem State.resetWith_params (p : Params) : (State.resetWith p).params = p := rfl
@[simp] theorem State.resetWith_cmd (p : Params) : (State.resetWith p).cmd = 0 := rfl
@[simp] theorem State.resetWith_engine (p : Params) : (State.resetWith p).engine = .idle := rfl
@[simp] theorem State.resetWith_done (p : Params) : (State.resetWith p).done = false := rfl
@[simp] theorem State.resetWith_err (p : Params) : (State.resetWith p).err = .ok := rfl
@[simp] theorem State.resetWith_valid (p : Params) : (State.resetWith p).valid = false := rfl
@[simp] theorem State.resetWith_z0 (p : Params) : (State.resetWith p).z0 = false := rfl
@[simp] theorem State.resetWith_ovf (p : Params) : (State.resetWith p).ovf = false := rfl
@[simp] theorem State.resetWith_ie (p : Params) : (State.resetWith p).ie = false := rfl
@[simp] theorem State.resetWith_msgLen (p : Params) : (State.resetWith p).msgLen = 0 := rfl
@[simp] theorem State.resetWith_outLen (p : Params) : (State.resetWith p).outLen = 0 := rfl
@[simp] theorem State.resetWith_slots (p : Params) : (State.resetWith p).slots = Vector.replicate 16 0 := rfl
@[simp] theorem State.resetWith_points (p : Params) : (State.resetWith p).points = Vector.replicate 8 none := rfl
@[simp] theorem State.resetWith_msg (p : Params) : (State.resetWith p).msg = ⟨0, []⟩ := rfl
@[simp] theorem State.resetWith_events (p : Params) : (State.resetWith p).events = [] := rfl
@[simp] theorem State.resetWith_response (p : Params) : (State.resetWith p).response = none := rfl

/-! ### softReset -/

@[simp] theorem State.softReset_params (s : State) : (s.softReset).params = s.params := rfl
@[simp] theorem State.softReset_cmd (s : State) : (s.softReset).cmd = 0 := rfl
@[simp] theorem State.softReset_engine (s : State) : (s.softReset).engine = .idle := rfl
@[simp] theorem State.softReset_done (s : State) : (s.softReset).done = false := rfl
@[simp] theorem State.softReset_err (s : State) : (s.softReset).err = .ok := rfl
@[simp] theorem State.softReset_valid (s : State) : (s.softReset).valid = false := rfl
@[simp] theorem State.softReset_z0 (s : State) : (s.softReset).z0 = false := rfl
@[simp] theorem State.softReset_ovf (s : State) : (s.softReset).ovf = false := rfl
@[simp] theorem State.softReset_ie (s : State) : (s.softReset).ie = false := rfl
@[simp] theorem State.softReset_msgLen (s : State) : (s.softReset).msgLen = 0 := rfl
@[simp] theorem State.softReset_outLen (s : State) : (s.softReset).outLen = 0 := rfl
@[simp] theorem State.softReset_slots (s : State) : (s.softReset).slots = Vector.replicate 16 0 := rfl
@[simp] theorem State.softReset_points (s : State) : (s.softReset).points = Vector.replicate 8 none := rfl
@[simp] theorem State.softReset_msg (s : State) : (s.softReset).msg = s.msg := rfl
@[simp] theorem State.softReset_events (s : State) : (s.softReset).events = s.events := rfl
@[simp] theorem State.softReset_response (s : State) : (s.softReset).response = s.response := rfl

/-! ### powerOn -/

@[simp] theorem State.powerOn_params (s : State) : (s.powerOn).params = s.params := rfl
@[simp] theorem State.powerOn_cmd (s : State) : (s.powerOn).cmd = 0 := rfl
@[simp] theorem State.powerOn_engine (s : State) : (s.powerOn).engine = .idle := rfl
@[simp] theorem State.powerOn_done (s : State) : (s.powerOn).done = false := rfl
@[simp] theorem State.powerOn_err (s : State) : (s.powerOn).err = .ok := rfl
@[simp] theorem State.powerOn_valid (s : State) : (s.powerOn).valid = false := rfl
@[simp] theorem State.powerOn_z0 (s : State) : (s.powerOn).z0 = false := rfl
@[simp] theorem State.powerOn_ovf (s : State) : (s.powerOn).ovf = false := rfl
@[simp] theorem State.powerOn_ie (s : State) : (s.powerOn).ie = false := rfl
@[simp] theorem State.powerOn_msgLen (s : State) : (s.powerOn).msgLen = 0 := rfl
@[simp] theorem State.powerOn_outLen (s : State) : (s.powerOn).outLen = 0 := rfl
@[simp] theorem State.powerOn_slots (s : State) : (s.powerOn).slots = Vector.replicate 16 0 := rfl
@[simp] theorem State.powerOn_points (s : State) : (s.powerOn).points = Vector.replicate 8 none := rfl
@[simp] theorem State.powerOn_msg (s : State) : (s.powerOn).msg = ⟨s.msg.powerOns + 1, []⟩ := rfl
@[simp] theorem State.powerOn_events (s : State) : (s.powerOn).events = s.events := rfl
@[simp] theorem State.powerOn_response (s : State) : (s.powerOn).response = none := rfl

@[simp] theorem State.accept_busy (s : State) (w : Word) : (s.accept w).busy = true := rfl
@[simp] theorem State.complete_busy (s : State) (e : ErrCode) : (s.complete e).busy = false := rfl
@[simp] theorem State.softReset_busy (s : State) : s.softReset.busy = false := rfl
@[simp] theorem State.powerOn_busy (s : State) : s.powerOn.busy = false := rfl
@[simp] theorem State.reset_busy : State.reset.busy = false := rfl

theorem State.busy_iff (s : State) : s.busy = true ↔ ∃ w, s.engine = .busy w := by
  unfold State.busy
  cases s.engine <;> simp

theorem State.busy_eq_false_iff (s : State) : s.busy = false ↔ s.engine = .idle := by
  unfold State.busy
  cases s.engine <;> simp

/-! ### Reads after writes -/

theorem State.slot_eq (s : State) (i : SlotIx) : s.slot i = s.slots[i.val] := rfl
theorem State.point_eq (s : State) (j : PointIx) : s.point j = s.points[j.val] := rfl

@[simp] theorem State.slot_setSlot_self (s : State) (i : SlotIx) (v : Slot) : (s.setSlot i v).slot i = v := by
  simp [State.slot_eq]

theorem State.slot_setSlot_of_ne (s : State) {i k : SlotIx} (v : Slot) (h : k ≠ i) :
    (s.setSlot i v).slot k = s.slot k := by
  have : i.val ≠ k.val := fun e => h (Fin.ext e.symm)
  simp [State.slot_eq, this]

theorem State.slot_setSlot (s : State) (i k : SlotIx) (v : Slot) :
    (s.setSlot i v).slot k = if k = i then v else s.slot k := by
  split
  · subst k; simp
  · exact State.slot_setSlot_of_ne s v ‹_›

@[simp] theorem State.point_setPoint_self (s : State) (j : PointIx) (q : Point) :
    (s.setPoint j q).point j = some q := by
  simp [State.point_eq]

theorem State.point_setPoint_of_ne (s : State) {j k : PointIx} (q : Point) (h : k ≠ j) :
    (s.setPoint j q).point k = s.point k := by
  have : j.val ≠ k.val := fun e => h (Fin.ext e.symm)
  simp [State.point_eq, this]

theorem State.point_setPoint (s : State) (j k : PointIx) (q : Point) :
    (s.setPoint j q).point k = if k = j then some q else s.point k := by
  split
  · subst k; simp
  · exact State.point_setPoint_of_ne s q ‹_›

theorem pair_low_ne_high (h k : PairIx) : h.low ≠ k.high := by
  intro e
  have := congrArg Fin.val e
  simp only [PairIx.low, PairIx.high] at this
  omega

@[simp] theorem State.slot_setPair_low (s : State) (h : PairIx) (v : Bytes64) :
    (s.setPair h v).slot h.low = firstHalf v := by
  simp [State.setPair, State.slot_setSlot, pair_low_ne_high]

@[simp] theorem State.slot_setPair_high (s : State) (h : PairIx) (v : Bytes64) :
    (s.setPair h v).slot h.high = secondHalf v := by
  simp [State.setPair]

theorem State.slot_setPair_of_ne (s : State) (h : PairIx) (v : Bytes64) {k : SlotIx} (h0 : k ≠ h.low)
    (h1 : k ≠ h.high) : (s.setPair h v).slot k = s.slot k := by
  simp [State.setPair, State.slot_setSlot, h0, h1]

@[simp] theorem State.resetWith_slot (p : Params) (i : SlotIx) : (State.resetWith p).slot i = 0 := by
  simp [State.slot_eq]

@[simp] theorem State.resetWith_point (p : Params) (j : PointIx) : (State.resetWith p).point j = none := by
  simp [State.point_eq]

@[simp] theorem State.softReset_slot (s : State) (i : SlotIx) : s.softReset.slot i = 0 := by
  simp [State.slot_eq]

@[simp] theorem State.softReset_point (s : State) (j : PointIx) : s.softReset.point j = none := by
  simp [State.point_eq]

@[simp] theorem State.powerOn_slot (s : State) (i : SlotIx) : s.powerOn.slot i = 0 := by
  simp [State.slot_eq]

@[simp] theorem State.powerOn_point (s : State) (j : PointIx) : s.powerOn.point j = none := by
  simp [State.point_eq]

end Sys2Proof.Machine
end

