-- ==== Sys2Proof/Laws/Ops.lean ====
section
/-!
SUPPORT. What the shared operations can do, once each: the completion, the reads that can fail, the signing result, and
the address map.
-/

namespace Sys2Proof.Machine

/-! ### Completion -/

@[simp] theorem finish_ok (s u : State) : finish s (.ok u) = .next (u.complete .ok) := rfl

@[simp] theorem finish_error (s : State) (e : ErrCode) : finish s (.error e) = .next (s.complete e) := rfl

/-- A completion answers a next state: the result's state completed OK, or the state as it was with the code. -/
theorem finish_cases {s t : State} {r : Except ErrCode State} (h : finish s r = .next t) :
    (∃ u, r = .ok u ∧ t = u.complete .ok) ∨ ∃ e, r = .error e ∧ t = s.complete e := by
  cases r with
  | ok u => exact .inl ⟨u, rfl, by simpa using h.symm⟩
  | error e => exact .inr ⟨e, rfl, by simpa using h.symm⟩

/-- Every command is a completion of some result computed from the state. -/
theorem exec_is_completion (i : Instr) (s : State) : ∃ r, exec i s = finish s r := by
  cases i <;>
    simp only [exec, execFadd, execFsub, execFmul, execFsq, execFinv, execFneg, execFcswap, execFcanon, execSred,
      execSmuladd, execPdec, execPdecn, execPenc, execPadd, execPdbl, execPneg, execPsmb, execPdsm, execKeypair,
      execSignSeed, execSignExp, execSignKp, execVerify, execOpen] <;>
    exact ⟨_, rfl⟩

/-! ### Reads that can fail -/

theorem readPoint_of_some {s : State} {j : PointIx} {q : Point} (h : s.point j = some q) : s.readPoint j = .ok q := by
  simp [State.readPoint, h]

theorem readPoint_of_none {s : State} {j : PointIx} (h : s.point j = none) : s.readPoint j = .error .uninit := by
  simp [State.readPoint, h]

theorem checkRange_of_lt {k : Nat} (h : k < 2 ^ 255) : checkRange k = .ok () := if_neg (Nat.not_le.2 h)

theorem checkRange_of_le {k : Nat} (h : 2 ^ 255 ≤ k) : checkRange k = .error .range := if_pos h

theorem msgLenOk_iff (s : State) : s.msgLenOk = true ↔ s.msgLen.toNat ≤ s.params.msgSize := decide_eq_true_iff

theorem signTo_of_le {s : State} (d : PairIx) (h : Bytes64) (A : Slot) (hl : s.msgLen.toNat ≤ s.params.msgSize) :
    signTo s d h A = .ok (s.setPair d (signCore h A s.message)) := if_pos ((msgLenOk_iff s).2 hl)

theorem signTo_of_lt {s : State} (d : PairIx) (h : Bytes64) (A : Slot) (hl : s.params.msgSize < s.msgLen.toNat) :
    signTo s d h A = .error .length := if_neg (by rw [msgLenOk_iff]; omega)

/-! ### The address map (R52) -/

theorem targetOf_reg {p : Params} {addr : Addr} {r : Reg} (h : regAt (addr.toNat / 4) = some r) :
    targetOf p addr = .reg r := by
  simp [targetOf, h]

theorem regAt_eq_none {k : Nat} (h : 7 ≤ k) : regAt k = none := by
  match k, h with
  | k + 7, _ => rfl

theorem targetOf_slot {p : Params} {addr : Addr} (i : SlotIx) (m : Fin 8) (k : Nat) (hk : k < 4)
    (h : addr.toNat = 0x200 + 32 * i.val + 4 * m.val + k) : targetOf p addr = .slotWord i m := by
  have hi := i.isLt
  have hm := m.isLt
  simp only [targetOf]
  rw [regAt_eq_none (by omega)]
  simp only
  rw [dif_pos (by omega)]
  congr 1 <;> apply Fin.ext <;> simp only <;> omega

theorem targetOf_msg {p : Params} {addr : Addr} (m k : Nat) (hk : k < 4) (hm : 4 * m + k < p.msgSize)
    (h : addr.toNat = 0x1000 + 4 * m + k) : targetOf p addr = .msgWord (4 * m) := by
  simp only [targetOf]
  rw [regAt_eq_none (by omega)]
  simp only
  rw [dif_neg (by omega), if_pos (by omega)]
  congr 1
  omega

theorem targetOf_unmapped {p : Params} {addr : Addr}
    (h : (0x01C ≤ addr.toNat ∧ addr.toNat < 0x200) ∨ (0x400 ≤ addr.toNat ∧ addr.toNat < 0x1000) ∨
      (0x1000 ≤ addr.toNat ∧ 0x1000 + p.msgSize ≤ addr.toNat)) : targetOf p addr = .unmapped := by
  simp only [targetOf]
  rw [regAt_eq_none (by omega)]
  simp only
  rw [dif_neg (by omega), if_neg (by omega)]

/-- A message word the bus names lies inside the message RAM. -/
theorem msgWord_inside {p : Params} {addr : Addr} {n : Nat} (hp : p.Ok) (h : targetOf p addr = .msgWord n) :
    n + 4 ≤ p.msgSize := by
  obtain ⟨h4, _, _⟩ := hp
  simp only [targetOf] at h
  split at h
  · cases h
  · split_ifs at h
    injection h with h
    omega

/-! ### Bus accesses -/

/-- An aligned access that reaches CTRL is at address 0x008 (R28). -/
theorem addr_of_ctrl {p : Params} {a : BusAccess} (h : targetOf p a.addr = .reg .ctrl) (hs : a.supported = true) :
    a.addr = 0x008 := by
  have h2 : a.addr.toNat / 4 = 2 := by
    simp only [targetOf] at h
    split at h
    · rename_i r hr
      injection h with h
      subst h
      revert hr
      generalize a.addr.toNat / 4 = k
      match k with
      | 0 | 1 | 3 | 4 | 5 | 6 => intro h; cases h
      | 2 => intro _; rfl
      | k + 7 => intro h; cases h
    · split_ifs at h
  simp only [BusAccess.supported, Bool.and_eq_true, beq_iff_eq] at hs
  apply BitVec.eq_of_toNat_eq
  show a.addr.toNat = 8
  omega

/-- A full-word read of a register answers OKAY with its word. -/
theorem busAccess_read_reg {s : State} {addr : Addr} {r : Reg} (h4 : addr.toNat % 4 = 0)
    (h : regAt (addr.toNat / 4) = some r) :
    s.busAccess ⟨addr, 0xF, .read⟩ = s.respond (.okay (some (s.readReg r))) := by
  simp [State.busAccess, State.busRead, targetOf_reg h, BusAccess.supported, h4]

/-- A full-word write to a register that takes it answers OKAY with its effect. -/
theorem busAccess_write_reg {s t : State} {addr : Addr} {r : Reg} {v : Word} (h4 : addr.toNat % 4 = 0)
    (h : regAt (addr.toNat / 4) = some r) (hw : s.writeReg r v = some t) :
    s.busAccess ⟨addr, 0xF, .write v⟩ = t.respond (.okay none) := by
  simp [State.busAccess, State.busWrite?, targetOf_reg h, BusAccess.supported, h4, hw]

/-- A full-word write to a register that refuses it answers ERROR and has no effect. -/
theorem busAccess_write_reg_none {s : State} {addr : Addr} {r : Reg} {v : Word} (h4 : addr.toNat % 4 = 0)
    (h : regAt (addr.toNat / 4) = some r) (hw : s.writeReg r v = none) :
    s.busAccess ⟨addr, 0xF, .write v⟩ = s.respond (.error none) := by
  simp [State.busAccess, State.busWrite?, targetOf_reg h, BusAccess.supported, h4, hw]

/-- A write that gets an OKAY does one of six things (R28, R29, R33, R34, R53, R55). -/
theorem busWrite?_cases {s t : State} {a : BusAccess} {v : Word} (h : s.busWrite? a v = some t) :
    t = s ∨ t = s.writeCmd v ∨ (a.supported = true ∧ a.addr = 0x008 ∧ t = s.writeCtrl v) ∨ (s.busy = false ∧ t = { s with msgLen := v }) ∨
      (s.busy = false ∧ ∃ i m, targetOf s.params a.addr = .slotWord i m ∧
        t = s.setSlot i (setSlotWord (s.slot i) m.val v)) ∨
      (s.busy = false ∧ ∃ n, targetOf s.params a.addr = .msgWord n ∧ t = { s with msg := s.msg.writeWord n v }) := by
  unfold State.busWrite? at h
  split at h
  · cases h
  · rename_i r hr
    split_ifs at h with hs
    cases r <;> simp only [State.writeReg, Option.some.injEq] at h
    · exact .inr (.inl h.symm)
    · exact .inl h.symm
    · exact .inr (.inr (.inl ⟨hs, addr_of_ctrl hr hs, h.symm⟩))
    · split_ifs at h with hb
      simp only [Option.some.injEq] at h
      exact .inr (.inr (.inr (.inl ⟨by simpa using hb, h.symm⟩)))
    · exact .inl h.symm
    · exact .inl h.symm
    · exact .inl h.symm
  · rename_i i m ht
    split_ifs at h with hb
    simp only [Option.some.injEq] at h
    simp only [Bool.and_eq_true, Bool.not_eq_true'] at hb
    exact .inr (.inr (.inr (.inr (.inl ⟨hb.2, i, m, ht, h.symm⟩))))
  · rename_i n ht
    split_ifs at h with hb
    simp only [Option.some.injEq] at h
    simp only [Bool.and_eq_true, Bool.not_eq_true'] at hb
    exact .inr (.inr (.inr (.inr (.inr ⟨hb.2, n, ht, h.symm⟩))))

/-- A bus access only records a response, or is one of the writes above followed by its OKAY. -/
theorem busAccess_cases (s : State) (a : BusAccess) :
    (∃ r, s.busAccess a = s.respond r) ∨
      ∃ v t, a.op = .write v ∧ s.busWrite? a v = some t ∧ s.busAccess a = t.respond (.okay none) := by
  unfold State.busAccess
  split
  · exact .inl ⟨_, rfl⟩
  · rename_i v hv
    split
    · rename_i t ht
      exact .inr ⟨v, t, hv, ht, rfl⟩
    · exact .inl ⟨_, rfl⟩

end Sys2Proof.Machine
end

