-- ==== Sys2Proof/Laws/Commands.lean ====
section
/-!
SUPPORT. What a command that can fail answers, one lemma per outcome, so that no later proof unfolds its checks.
-/

namespace Sys2Proof.Machine

variable {s : State}

/-- A step of the error monad that succeeds: both parts do. -/
theorem except_bind_ok {ε α β : Type} {x : Except ε α} {f : α → Except ε β} {b : β} (h : x.bind f = .ok b) :
    ∃ a, x = .ok a ∧ f a = .ok b := by
  cases x with
  | error e => cases h
  | ok a => exact ⟨a, rfl, h⟩

/-! ### Decoding -/

theorem exec_pdec_of_ok {d : PointIx} {a : SlotIx} {q : Point} (h : pointDecode (s.slot a) = .ok q) :
    exec (.pdec d a) s = .next ((s.setPoint d q).complete .ok) := by
  simp only [exec, execPdec, h]; rfl

theorem exec_pdec_of_error {d : PointIx} {a : SlotIx} {e : ErrCode} (h : pointDecode (s.slot a) = .error e) :
    exec (.pdec d a) s = .next (s.complete e) := by
  simp only [exec, execPdec, h]; rfl

theorem exec_pdecn_of_ok {d : PointIx} {a : SlotIx} {q : Point} (h : pointDecode (s.slot a) = .ok q) :
    exec (.pdecn d a) s = .next ((s.setPoint d q.neg).complete .ok) := by
  simp only [exec, execPdecn, h]; rfl

theorem exec_pdecn_of_error {d : PointIx} {a : SlotIx} {e : ErrCode} (h : pointDecode (s.slot a) = .error e) :
    exec (.pdecn d a) s = .next (s.complete e) := by
  simp only [exec, execPdecn, h]; rfl

/-! ### Commands that read point registers -/

theorem exec_penc_of_some {d : SlotIx} {a : PointIx} {q : Point} (h : s.point a = some q) :
    exec (.penc d a) s = .next ((s.setSlot d (pointEncode q)).complete .ok) := by
  simp only [exec, execPenc, readPoint_of_some h]; rfl

theorem exec_penc_of_none {d : SlotIx} {a : PointIx} (h : s.point a = none) :
    exec (.penc d a) s = .next (s.complete .uninit) := by
  simp only [exec, execPenc, readPoint_of_none h]; rfl

theorem exec_padd_of_some {d a b : PointIx} {q r : Point} (ha : s.point a = some q) (hb : s.point b = some r) :
    exec (.padd d a b) s = .next ((s.setPoint d (q.add r)).complete .ok) := by
  simp only [exec, execPadd, readPoint_of_some ha, readPoint_of_some hb]; rfl

theorem exec_padd_of_none {d a b : PointIx} (h : s.point a = none ∨ s.point b = none) :
    exec (.padd d a b) s = .next (s.complete .uninit) := by
  rcases ha : s.point a with _ | q
  · simp only [exec, execPadd, readPoint_of_none ha]; rfl
  · have hb := h.resolve_left (by simp [ha])
    simp only [exec, execPadd, readPoint_of_some ha, readPoint_of_none hb]; rfl

theorem exec_pdbl_of_some {d a : PointIx} {q : Point} (h : s.point a = some q) :
    exec (.pdbl d a) s = .next ((s.setPoint d (q.add q)).complete .ok) := by
  simp only [exec, execPdbl, readPoint_of_some h]; rfl

theorem exec_pdbl_of_none {d a : PointIx} (h : s.point a = none) :
    exec (.pdbl d a) s = .next (s.complete .uninit) := by
  simp only [exec, execPdbl, readPoint_of_none h]; rfl

theorem exec_pneg_of_some {d a : PointIx} {q : Point} (h : s.point a = some q) :
    exec (.pneg d a) s = .next ((s.setPoint d q.neg).complete .ok) := by
  simp only [exec, execPneg, readPoint_of_some h]; rfl

theorem exec_pneg_of_none {d a : PointIx} (h : s.point a = none) :
    exec (.pneg d a) s = .next (s.complete .uninit) := by
  simp only [exec, execPneg, readPoint_of_none h]; rfl

/-! ### Scalar multipliers -/

theorem exec_psmb_of_lt {d : PointIx} {a : SlotIx} (h : s.scalarOf a < 2 ^ 255) :
    exec (.psmb d a) s = .next ((s.setPoint d (Point.smul (s.scalarOf a) basePoint)).complete .ok) := by
  simp only [exec, execPsmb, checkRange_of_lt h]; rfl

theorem exec_psmb_of_le {d : PointIx} {a : SlotIx} (h : 2 ^ 255 ≤ s.scalarOf a) :
    exec (.psmb d a) s = .next (s.complete .range) := by
  simp only [exec, execPsmb, checkRange_of_le h]; rfl

theorem exec_pdsm_of_none {d : PointIx} {a : SlotIx} {b : PointIx} {c : SlotIx} (h : s.point b = none) :
    exec (.pdsm d a b c) s = .next (s.complete .uninit) := by
  simp only [exec, execPdsm, readPoint_of_none h]; rfl

theorem exec_pdsm_of_le {d : PointIx} {a : SlotIx} {b : PointIx} {c : SlotIx} {q : Point} (hb : s.point b = some q)
    (h : 2 ^ 255 ≤ s.scalarOf a ∨ 2 ^ 255 ≤ s.scalarOf c) : exec (.pdsm d a b c) s = .next (s.complete .range) := by
  simp only [exec, execPdsm, readPoint_of_some hb]
  rcases Nat.lt_or_ge (s.scalarOf a) (2 ^ 255) with ha | ha
  · have hc := h.resolve_left (Nat.not_le.2 ha)
    simp only [checkRange_of_lt ha, checkRange_of_le hc]; rfl
  · simp only [checkRange_of_le ha]; rfl

theorem exec_pdsm_of_lt {d : PointIx} {a : SlotIx} {b : PointIx} {c : SlotIx} {q : Point} (hb : s.point b = some q)
    (ha : s.scalarOf a < 2 ^ 255) (hc : s.scalarOf c < 2 ^ 255) :
    exec (.pdsm d a b c) s = .next ((s.setPoint d
      ((Point.smul (s.scalarOf a) q).add (Point.smul (s.scalarOf c) basePoint))).complete .ok) := by
  simp only [exec, execPdsm, readPoint_of_some hb, checkRange_of_lt ha, checkRange_of_lt hc]; rfl

/-! ### Verification -/

theorem verifyCore_of_error {strictS : Bool} {M : List Byte} {sig : Bytes64} {A : Slot} {e : ErrCode}
    (h : pointDecode A = .error e) : verifyCore strictS M sig A = false := by
  rw [verifyCore, h, Bool.and_false]

theorem verifyCore_of_ok {strictS : Bool} {M : List Byte} {sig : Bytes64} {A : Slot} {Q : Point}
    (h : pointDecode A = .ok Q) :
    verifyCore strictS M sig A = (sCheck strictS (secondHalf sig) && verifyEquation M sig A Q) := by
  rw [verifyCore, h]

/-! ### Signature commands -/

theorem exec_keypair_of_ne {d a : SlotIx} {b : PairIx} (h1 : d ≠ b.low) (h2 : d ≠ b.high) :
    exec (.keypair d a b) s = .next (((s.setPair b (expandSeed (s.slot a))).setSlot d
      (publicKey (expandSeed (s.slot a)))).complete .ok) := by
  have ho : keypairOverlap d b = false := by simp [keypairOverlap, h1, h2]
  simp only [exec, execKeypair, ho]; rfl

theorem exec_signSeed_of_le {d : PairIx} {a : SlotIx} (hl : s.msgLen.toNat ≤ s.params.msgSize) :
    exec (.signSeed d a) s = .next ((s.setPair d (signCore (expandSeed (s.slot a))
      (publicKey (expandSeed (s.slot a))) s.message)).complete .ok) := by
  simp only [exec, execSignSeed, signTo_of_le _ _ _ hl]; rfl

theorem exec_signSeed_of_lt {d : PairIx} {a : SlotIx} (hl : s.params.msgSize < s.msgLen.toNat) :
    exec (.signSeed d a) s = .next (s.complete .length) := by
  simp only [exec, execSignSeed, signTo_of_lt _ _ _ hl]; rfl

theorem exec_signExp_of_le {d a : PairIx} (hl : s.msgLen.toNat ≤ s.params.msgSize) :
    exec (.signExp d a) s =
      .next ((s.setPair d (signCore (s.pair a) (publicKey (s.pair a)) s.message)).complete .ok) := by
  simp only [exec, execSignExp, signTo_of_le _ _ _ hl]; rfl

theorem exec_signExp_of_lt {d a : PairIx} (hl : s.params.msgSize < s.msgLen.toNat) :
    exec (.signExp d a) s = .next (s.complete .length) := by
  simp only [exec, execSignExp, signTo_of_lt _ _ _ hl]; rfl

theorem exec_signKp_of_le {d : PairIx} {a b : SlotIx} (hl : s.msgLen.toNat ≤ s.params.msgSize) :
    exec (.signKp d a b) s =
      .next ((s.setPair d (signCore (expandSeed (s.slot a)) (s.slot b) s.message)).complete .ok) := by
  simp only [exec, execSignKp, signTo_of_le _ _ _ hl]; rfl

theorem exec_signKp_of_lt {d : PairIx} {a b : SlotIx} (hl : s.params.msgSize < s.msgLen.toNat) :
    exec (.signKp d a b) s = .next (s.complete .length) := by
  simp only [exec, execSignKp, signTo_of_lt _ _ _ hl]; rfl

theorem exec_verify_of_le {a : PairIx} {b : SlotIx} (hl : s.msgLen.toNat ≤ s.params.msgSize) :
    exec (.verify a b) s =
      .next ((s.setValid (verifyCore s.params.strictS s.message (s.pair a) (s.slot b))).complete .ok) := by
  simp only [exec, execVerify, (msgLenOk_iff s).2 hl]; rfl

theorem exec_verify_of_lt {a : PairIx} {b : SlotIx} (hl : s.params.msgSize < s.msgLen.toNat) :
    exec (.verify a b) s = .next (s.complete .length) := by
  have h : s.msgLenOk = false := by rw [← Bool.not_eq_true, msgLenOk_iff]; omega
  simp only [exec, execVerify, h]; rfl

theorem exec_open_of_le {b : SlotIx} (h64 : 64 ≤ s.msgLen.toNat) (hl : s.msgLen.toNat ≤ s.params.msgSize) :
    exec (.openMsg b) s = .next ((openResult s b).complete .ok) := by
  simp only [exec, execOpen, (msgLenOk_iff s).2 hl, h64]; rfl

theorem exec_open_of_lt {b : SlotIx} (h : s.msgLen.toNat < 64 ∨ s.params.msgSize < s.msgLen.toNat) :
    exec (.openMsg b) s = .next (s.complete .length) := by
  have h' : (s.msgLenOk && decide (64 ≤ s.msgLen.toNat)) = false := by
    rw [← Bool.not_eq_true, Bool.and_eq_true, msgLenOk_iff, decide_eq_true_eq]; omega
  simp only [exec, execOpen, h']; rfl

end Sys2Proof.Machine
end

