-- ==== Sys2Proof/Laws/Edwards.lean ====
section
/-!
SUPPORT. The twisted Edwards law of R16 over any field in which -1 is a square and d is not: no denominator of it is
ever 0 (completeness), sums stay on the curve, and it is associative. The cofactors of the two associativity lemmas
were computed by polynomial division by the three curve equations.
-/

namespace Sys2Proof.Laws.Edwards

variable {F : Type} [Field F] {d : F}

/-- (x, y) satisfies the curve equation of R14, all terms on one side. -/
def OnE (d x y : F) : Prop := d * x ^ 2 * y ^ 2 + 1 + x ^ 2 - y ^ 2 = 0

/-- t of R16. -/
def tTerm (d x1 y1 x2 y2 : F) : F := d * x1 * x2 * y1 * y2

/-- x3 of R16. -/
def addX (d x1 y1 x2 y2 : F) : F := (x1 * y2 + y1 * x2) * (1 + tTerm d x1 y1 x2 y2)⁻¹

/-- y3 of R16. -/
def addY (d x1 y1 x2 y2 : F) : F := (y1 * y2 + x1 * x2) * (1 - tTerm d x1 y1 x2 y2)⁻¹

/-- What makes the law complete: -1 is a square, d is not, and 2 is invertible. -/
structure Complete (d : F) : Prop where
  two : (2 : F) ≠ 0
  negOne : ∃ i : F, i * i = -1
  nonsquare : ∀ r : F, r * r ≠ d

theorem tTerm_sq_ne_one (hc : Complete d) {x1 y1 x2 y2 : F} (h1 : OnE d x1 y1) (h2 : OnE d x2 y2) :
    tTerm d x1 y1 x2 y2 ^ 2 ≠ 1 := by
  obtain ⟨h2ne, ⟨i, hi⟩, hd⟩ := hc
  unfold OnE at h1 h2
  intro ht
  have key : ∀ e : F, e ^ 2 = 1 →
      d * (x1 * y1 * (i * x2 + e * y2)) ^ 2 = (i * x1 + e * tTerm d x1 y1 x2 y2 * y1) ^ 2 := by
    intro e he
    unfold tTerm at ht ⊢
    linear_combination
      (d * x1 ^ 2 * y1 ^ 2 * x2 ^ 2 - x1 ^ 2) * hi + (d * x1 ^ 2 * y1 ^ 2 * y2 ^ 2
        - (d * x1 * x2 * y1 * y2) ^ 2 * y1 ^ 2) * he + (1 - y1 ^ 2) * ht - d * x1 ^ 2 * y1 ^ 2 * h2 + h1
  have htne : tTerm d x1 y1 x2 y2 ≠ 0 := by
    intro h0
    rw [h0] at ht
    norm_num at ht
  have hxy : x1 * y1 ≠ 0 := fun h0 => htne (by unfold tTerm; linear_combination d * x2 * y2 * h0)
  have hz : ∀ e : F, e ^ 2 = 1 → i * x2 + e * y2 = 0 := by
    intro e he
    by_contra hne
    have hden : x1 * y1 * (i * x2 + e * y2) ≠ 0 := mul_ne_zero hxy hne
    refine hd ((i * x1 + e * tTerm d x1 y1 x2 y2 * y1) / (x1 * y1 * (i * x2 + e * y2))) ?_
    rw [div_mul_div_comm, div_eq_iff (mul_ne_zero hden hden)]
    linear_combination -(key e he)
  have hx : 2 * (i * x2) = 0 := by linear_combination hz 1 (by ring) + hz (-1) (by ring)
  have hix : i * x2 = 0 := (mul_eq_zero.1 hx).resolve_left h2ne
  exact htne (by unfold tTerm; linear_combination -(d * x1 * y1 * y2 * i) * hix + d * x1 * x2 * y1 * y2 * hi)

theorem denoms_ne_zero (hc : Complete d) {x1 y1 x2 y2 : F} (h1 : OnE d x1 y1) (h2 : OnE d x2 y2) :
    1 + tTerm d x1 y1 x2 y2 ≠ 0 ∧ 1 - tTerm d x1 y1 x2 y2 ≠ 0 := by
  have h := tTerm_sq_ne_one hc h1 h2
  constructor <;> intro h0 <;> apply h
  · linear_combination (tTerm d x1 y1 x2 y2 - 1) * h0
  · linear_combination (-tTerm d x1 y1 x2 y2 - 1) * h0

theorem onE_of_fractions {X Y A B : F} (hA : A ≠ 0) (hB : B ≠ 0)
    (h : d * X ^ 2 * Y ^ 2 + A ^ 2 * B ^ 2 + X ^ 2 * B ^ 2 - Y ^ 2 * A ^ 2 = 0) : OnE d (X * A⁻¹) (Y * B⁻¹) := by
  unfold OnE
  field_simp
  linear_combination h

/-- Sums of points of E are points of E. -/
theorem onE_add (hc : Complete d) {x1 y1 x2 y2 : F} (h1 : OnE d x1 y1) (h2 : OnE d x2 y2) :
    OnE d (addX d x1 y1 x2 y2) (addY d x1 y1 x2 y2) := by
  obtain ⟨ha, hb⟩ := denoms_ne_zero hc h1 h2
  refine onE_of_fractions ha hb ?_
  unfold OnE at h1 h2
  unfold tTerm
  linear_combination
    -((-x1^2*y1^2*x2^4*y2^4*d^3 + x1^2*x2^4*y2^4*d^2 + x1^2*x2^4*y2^2*d - x1^2*x2^2*y2^4*d - y1^2*x2^4*y2^4*d^2
      - y1^2*x2^4*y2^2*d + y1^2*x2^2*y2^4*d + x2^4*y2^4*d^2 + 2*x2^4*y2^4*d + 2*x2^4*y2^2 - x2^4 - 2*x2^2*y2^4
      + 2*x2^2*y2^2*d + 4*x2^2*y2^2 - y2^4) * h1 +
    (-x1^4*x2^2*y2^2*d - 2*x1^2*x2^2*y2^2*d - 2*x1^2*x2^2*y2^2 + x1^2*x2^2 - x1^2*y2^2 - y1^4*x2^2*y2^2*d +
      2*y1^2*x2^2*y2^2*d + 2*y1^2*x2^2*y2^2 - y1^2*x2^2 + y1^2*y2^2 - x2^2*y2^2*d - 2*x2^2*y2^2 + x2^2 - y2^2 -
      1) * h2)

theorem add_comm_coords (x1 y1 x2 y2 : F) :
    addX d x1 y1 x2 y2 = addX d x2 y2 x1 y1 ∧ addY d x1 y1 x2 y2 = addY d x2 y2 x1 y1 := by
  have ht : tTerm d x1 y1 x2 y2 = tTerm d x2 y2 x1 y1 := by unfold tTerm; ring
  unfold addX addY
  rw [ht]
  exact ⟨by ring, by ring⟩

/-- Associativity of the cleared x-coordinates. -/
theorem assocX_cleared {x1 y1 x2 y2 x3 y3 : F} (h1 : OnE d x1 y1) (h2 : OnE d x2 y2) (h3 : OnE d x3 y3) :
    ((x1 * y2 + y1 * x2) * (1 - d * x1 * x2 * y1 * y2) * y3 + (y1 * y2 + x1 * x2) * (1 + d * x1 * x2 * y1 * y2) * x3)
      * ((1 + d * x2 * x3 * y2 * y3) * (1 - d * x2 * x3 * y2 * y3)
        + d * x1 * y1 * (x2 * y3 + y2 * x3) * (y2 * y3 + x2 * x3))
    = (x1 * (y2 * y3 + x2 * x3) * (1 + d * x2 * x3 * y2 * y3) + y1 * (x2 * y3 + y2 * x3) * (1 - d * x2 * x3 * y2 * y3))
      * ((1 + d * x1 * x2 * y1 * y2) * (1 - d * x1 * x2 * y1 * y2)
        + d * (x1 * y2 + y1 * x2) * (y1 * y2 + x1 * x2) * x3 * y3) := by
  unfold OnE at h1 h2 h3
  linear_combination
    (x1*x2^4*y2^3*x3^2*y3*d^2 + x1*x2^4*y2*x3^2*y3*d + x1*x2^3*y2^4*x3*y3^2*d^2 + x1*x2^3*y2^2*x3^3*d +
      x1*x2^3*y2^2*x3*d - x1*x2^2*y2^3*y3^3*d + x1*x2^2*y2^3*y3*d - x1*x2*y2^4*x3*y3^2*d -
      y1*x2^4*y2^3*x3*y3^2*d^2 - y1*x2^4*y2*x3*y3^2*d - y1*x2^3*y2^4*x3^2*y3*d^2 - y1*x2^3*y2^2*y3^3*d +
      y1*x2^3*y2^2*y3*d + y1*x2^2*y2^3*x3^3*d + y1*x2^2*y2^3*x3*d + y1*x2*y2^4*x3^2*y3*d) * h1 +
    (-x1^3*x2^2*y2*x3^2*y3*d - x1^3*x2*y2^2*x3*y3^2*d - x1^3*x2*x3^3*y3^2*d - x1^3*x2*x3^3 + x1^3*x2*x3*y3^2
      - x1^3*x2*x3 - x1^3*y2*x3^2*y3^3*d - x1^3*y2*x3^2*y3 + x1^3*y2*y3^3 - x1^3*y2*y3 -
      x1^2*y1*x2^2*y2*x3^3*y3^2*d^2 + x1^2*y1*x2^2*y2*x3*y3^2*d + x1^2*y1*x2*y2^2*x3^2*y3^3*d^2 +
      x1^2*y1*x2*y2^2*x3^2*y3*d - x1^2*y1*x2*x3^2*y3^3*d - x1^2*y1*x2*x3^2*y3 + x1^2*y1*x2*y3^3 - x1^2*y1*x2*y3
      - x1^2*y1*y2*x3^3*y3^2*d - x1^2*y1*y2*x3^3 + x1^2*y1*y2*x3*y3^2 - x1^2*y1*y2*x3 +
      x1*y1^2*x2^2*y2*x3^2*y3^3*d^2 + x1*y1^2*x2^2*y2*x3^2*y3*d - x1*y1^2*x2*y2^2*x3^3*y3^2*d^2 +
      x1*y1^2*x2*y2^2*x3*y3^2*d + x1*y1^2*x2*x3^3*y3^2*d + x1*y1^2*x2*x3^3 - x1*y1^2*x2*x3*y3^2 + x1*y1^2*x2*x3
      + x1*y1^2*y2*x3^2*y3^3*d + x1*y1^2*y2*x3^2*y3 - x1*y1^2*y2*y3^3 + x1*y1^2*y2*y3 - x1*x2^2*y2*x3^2*y3*d -
      x1*x2*y2^2*x3*y3^2*d - x1*x2*x3^3*y3^2*d - x1*x2*x3^3 + x1*x2*x3*y3^2 - x1*x2*x3 - x1*y2*x3^2*y3^3*d -
      x1*y2*x3^2*y3 + x1*y2*y3^3 - x1*y2*y3 - y1^3*x2^2*y2*x3*y3^2*d - y1^3*x2*y2^2*x3^2*y3*d +
      y1^3*x2*x3^2*y3^3*d + y1^3*x2*x3^2*y3 - y1^3*x2*y3^3 + y1^3*x2*y3 + y1^3*y2*x3^3*y3^2*d + y1^3*y2*x3^3 -
      y1^3*y2*x3*y3^2 + y1^3*y2*x3 + y1*x2^2*y2*x3*y3^2*d + y1*x2*y2^2*x3^2*y3*d - y1*x2*x3^2*y3^3*d -
      y1*x2*x3^2*y3 + y1*x2*y3^3 - y1*x2*y3 - y1*y2*x3^3*y3^2*d - y1*y2*x3^3 + y1*y2*x3*y3^2 - y1*y2*x3) * h2 +
    (x1^3*x2^3*x3 + x1^3*x2^2*y2*y3 - x1^3*x2*y2^2*x3 + x1^3*x2*x3 - x1^3*y2^3*y3 + x1^3*y2*y3 +
      x1^2*y1*x2^3*y3 + x1^2*y1*x2^2*y2*x3*d + x1^2*y1*x2^2*y2*x3 - x1^2*y1*x2*y2^2*y3*d - x1^2*y1*x2*y2^2*y3 +
      x1^2*y1*x2*y3 - x1^2*y1*y2^3*x3 + x1^2*y1*y2*x3 - x1*y1^2*x2^3*x3 - x1*y1^2*x2^2*y2*y3*d -
      x1*y1^2*x2^2*y2*y3 + x1*y1^2*x2*y2^2*x3*d + x1*y1^2*x2*y2^2*x3 - x1*y1^2*x2*x3 + x1*y1^2*y2^3*y3 -
      x1*y1^2*y2*y3 + x1*x2^3*x3 + x1*x2^2*y2*y3 - x1*x2*y2^2*x3 + x1*x2*x3 - x1*y2^3*y3 + x1*y2*y3 -
      y1^3*x2^3*y3 - y1^3*x2^2*y2*x3 + y1^3*x2*y2^2*y3 - y1^3*x2*y3 + y1^3*y2^3*x3 - y1^3*y2*x3 + y1*x2^3*y3 +
      y1*x2^2*y2*x3 - y1*x2*y2^2*y3 + y1*x2*y3 - y1*y2^3*x3 + y1*y2*x3) * h3

/-- Associativity of the cleared y-coordinates. -/
theorem assocY_cleared {x1 y1 x2 y2 x3 y3 : F} (h1 : OnE d x1 y1) (h2 : OnE d x2 y2) (h3 : OnE d x3 y3) :
    ((y1 * y2 + x1 * x2) * (1 + d * x1 * x2 * y1 * y2) * y3 + (x1 * y2 + y1 * x2) * (1 - d * x1 * x2 * y1 * y2) * x3)
      * ((1 + d * x2 * x3 * y2 * y3) * (1 - d * x2 * x3 * y2 * y3)
        - d * x1 * y1 * (x2 * y3 + y2 * x3) * (y2 * y3 + x2 * x3))
    = (y1 * (y2 * y3 + x2 * x3) * (1 + d * x2 * x3 * y2 * y3) + x1 * (x2 * y3 + y2 * x3) * (1 - d * x2 * x3 * y2 * y3))
      * ((1 + d * x1 * x2 * y1 * y2) * (1 - d * x1 * x2 * y1 * y2)
        - d * (x1 * y2 + y1 * x2) * (y1 * y2 + x1 * x2) * x3 * y3) := by
  unfold OnE at h1 h2 h3
  linear_combination
    (-x1*x2^4*y2^3*x3*y3^2*d^2 - x1*x2^4*y2*x3*y3^2*d - x1*x2^3*y2^4*x3^2*y3*d^2 - x1*x2^3*y2^2*y3^3*d +
      x1*x2^3*y2^2*y3*d + x1*x2^2*y2^3*x3^3*d + x1*x2^2*y2^3*x3*d + x1*x2*y2^4*x3^2*y3*d +
      y1*x2^4*y2^3*x3^2*y3*d^2 + y1*x2^4*y2*x3^2*y3*d + y1*x2^3*y2^4*x3*y3^2*d^2 + y1*x2^3*y2^2*x3^3*d +
      y1*x2^3*y2^2*x3*d - y1*x2^2*y2^3*y3^3*d + y1*x2^2*y2^3*y3*d - y1*x2*y2^4*x3*y3^2*d) * h1 +
    (x1^3*x2^2*y2*x3*y3^2*d + x1^3*x2*y2^2*x3^2*y3*d - x1^3*x2*x3^2*y3^3*d - x1^3*x2*x3^2*y3 + x1^3*x2*y3^3 -
      x1^3*x2*y3 - x1^3*y2*x3^3*y3^2*d - x1^3*y2*x3^3 + x1^3*y2*x3*y3^2 - x1^3*y2*x3 -
      x1^2*y1*x2^2*y2*x3^2*y3^3*d^2 - x1^2*y1*x2^2*y2*x3^2*y3*d + x1^2*y1*x2*y2^2*x3^3*y3^2*d^2 -
      x1^2*y1*x2*y2^2*x3*y3^2*d - x1^2*y1*x2*x3^3*y3^2*d - x1^2*y1*x2*x3^3 + x1^2*y1*x2*x3*y3^2 - x1^2*y1*x2*x3
      - x1^2*y1*y2*x3^2*y3^3*d - x1^2*y1*y2*x3^2*y3 + x1^2*y1*y2*y3^3 - x1^2*y1*y2*y3 +
      x1*y1^2*x2^2*y2*x3^3*y3^2*d^2 - x1*y1^2*x2^2*y2*x3*y3^2*d - x1*y1^2*x2*y2^2*x3^2*y3^3*d^2 -
      x1*y1^2*x2*y2^2*x3^2*y3*d + x1*y1^2*x2*x3^2*y3^3*d + x1*y1^2*x2*x3^2*y3 - x1*y1^2*x2*y3^3 + x1*y1^2*x2*y3
      + x1*y1^2*y2*x3^3*y3^2*d + x1*y1^2*y2*x3^3 - x1*y1^2*y2*x3*y3^2 + x1*y1^2*y2*x3 + x1*x2^2*y2*x3*y3^2*d +
      x1*x2*y2^2*x3^2*y3*d - x1*x2*x3^2*y3^3*d - x1*x2*x3^2*y3 + x1*x2*y3^3 - x1*x2*y3 - x1*y2*x3^3*y3^2*d -
      x1*y2*x3^3 + x1*y2*x3*y3^2 - x1*y2*x3 + y1^3*x2^2*y2*x3^2*y3*d + y1^3*x2*y2^2*x3*y3^2*d +
      y1^3*x2*x3^3*y3^2*d + y1^3*x2*x3^3 - y1^3*x2*x3*y3^2 + y1^3*x2*x3 + y1^3*y2*x3^2*y3^3*d + y1^3*y2*x3^2*y3
      - y1^3*y2*y3^3 + y1^3*y2*y3 - y1*x2^2*y2*x3^2*y3*d - y1*x2*y2^2*x3*y3^2*d - y1*x2*x3^3*y3^2*d -
      y1*x2*x3^3 + y1*x2*x3*y3^2 - y1*x2*x3 - y1*y2*x3^2*y3^3*d - y1*y2*x3^2*y3 + y1*y2*y3^3 - y1*y2*y3) * h2 +
    (x1^3*x2^3*y3 + x1^3*x2^2*y2*x3 - x1^3*x2*y2^2*y3 + x1^3*x2*y3 - x1^3*y2^3*x3 + x1^3*y2*x3 +
      x1^2*y1*x2^3*x3 + x1^2*y1*x2^2*y2*y3*d + x1^2*y1*x2^2*y2*y3 - x1^2*y1*x2*y2^2*x3*d - x1^2*y1*x2*y2^2*x3 +
      x1^2*y1*x2*x3 - x1^2*y1*y2^3*y3 + x1^2*y1*y2*y3 - x1*y1^2*x2^3*y3 - x1*y1^2*x2^2*y2*x3*d -
      x1*y1^2*x2^2*y2*x3 + x1*y1^2*x2*y2^2*y3*d + x1*y1^2*x2*y2^2*y3 - x1*y1^2*x2*y3 + x1*y1^2*y2^3*x3 -
      x1*y1^2*y2*x3 + x1*x2^3*y3 + x1*x2^2*y2*x3 - x1*x2*y2^2*y3 + x1*x2*y3 - x1*y2^3*x3 + x1*y2*x3 -
      y1^3*x2^3*x3 - y1^3*x2^2*y2*y3 + y1^3*x2*y2^2*x3 - y1^3*x2*x3 + y1^3*y2^3*y3 - y1^3*y2*y3 + y1*x2^3*x3 +
      y1*x2^2*y2*y3 - y1*x2*y2^2*x3 + y1*x2*x3 - y1*y2^3*y3 + y1*y2*y3) * h3

theorem scale_fraction {c n m : F} (hc : c ≠ 0) : c * n * (c * m)⁻¹ = n * m⁻¹ := by
  rw [mul_inv, mul_mul_mul_comm, mul_inv_cancel₀ hc, one_mul]

/-- A fraction of fractions, as the second addition of a triple sum builds it: x-coordinate. -/
theorem fractionX {X Y A B x y : F} (hA : A ≠ 0) (hB : B ≠ 0) (hD : 1 + d * (X * A⁻¹) * x * (Y * B⁻¹) * y ≠ 0) :
    A * B + d * X * Y * x * y ≠ 0 ∧
    ((X * A⁻¹) * y + (Y * B⁻¹) * x) * (1 + d * (X * A⁻¹) * x * (Y * B⁻¹) * y)⁻¹
      = (X * B * y + Y * A * x) * (A * B + d * X * Y * x * y)⁻¹ := by
  have hk : A * B + d * X * Y * x * y = A * B * (1 + d * (X * A⁻¹) * x * (Y * B⁻¹) * y) := by
    field_simp
  have hn : X * B * y + Y * A * x = A * B * ((X * A⁻¹) * y + (Y * B⁻¹) * x) := by
    field_simp
  refine ⟨hk ▸ mul_ne_zero (mul_ne_zero hA hB) hD, ?_⟩
  rw [hk, hn, scale_fraction (mul_ne_zero hA hB)]

/-- A fraction of fractions: y-coordinate. -/
theorem fractionY {X Y A B x y : F} (hA : A ≠ 0) (hB : B ≠ 0) (hD : 1 - d * (X * A⁻¹) * x * (Y * B⁻¹) * y ≠ 0) :
    A * B - d * X * Y * x * y ≠ 0 ∧
    ((Y * B⁻¹) * y + (X * A⁻¹) * x) * (1 - d * (X * A⁻¹) * x * (Y * B⁻¹) * y)⁻¹
      = (Y * A * y + X * B * x) * (A * B - d * X * Y * x * y)⁻¹ := by
  have hk : A * B - d * X * Y * x * y = A * B * (1 - d * (X * A⁻¹) * x * (Y * B⁻¹) * y) := by
    field_simp
  have hn : Y * A * y + X * B * x = A * B * ((Y * B⁻¹) * y + (X * A⁻¹) * x) := by
    field_simp
  refine ⟨hk ▸ mul_ne_zero (mul_ne_zero hA hB) hD, ?_⟩
  rw [hk, hn, scale_fraction (mul_ne_zero hA hB)]

/-- Associativity, x-coordinate. -/
theorem addX_assoc (hc : Complete d) {x1 y1 x2 y2 x3 y3 : F} (h1 : OnE d x1 y1) (h2 : OnE d x2 y2)
    (h3 : OnE d x3 y3) :
    addX d (addX d x1 y1 x2 y2) (addY d x1 y1 x2 y2) x3 y3
      = addX d x1 y1 (addX d x2 y2 x3 y3) (addY d x2 y2 x3 y3) := by
  obtain ⟨hA, hB⟩ := denoms_ne_zero hc h1 h2
  obtain ⟨hC, hD⟩ := denoms_ne_zero hc h2 h3
  have hL := (denoms_ne_zero hc (onE_add hc h1 h2) h3).1
  have hR := (denoms_ne_zero hc (onE_add hc h2 h3) h1).1
  rw [(add_comm_coords x1 y1 (addX d x2 y2 x3 y3) (addY d x2 y2 x3 y3)).1]
  unfold addX addY tTerm at *
  obtain ⟨hL0, hLe⟩ := fractionX hA hB hL
  obtain ⟨hR0, hRe⟩ := fractionX hC hD hR
  rw [hLe, hRe, ← div_eq_mul_inv, ← div_eq_mul_inv, div_eq_div_iff hL0 hR0]
  linear_combination assocX_cleared h1 h2 h3

/-- Associativity, y-coordinate. -/
theorem addY_assoc (hc : Complete d) {x1 y1 x2 y2 x3 y3 : F} (h1 : OnE d x1 y1) (h2 : OnE d x2 y2)
    (h3 : OnE d x3 y3) :
    addY d (addX d x1 y1 x2 y2) (addY d x1 y1 x2 y2) x3 y3
      = addY d x1 y1 (addX d x2 y2 x3 y3) (addY d x2 y2 x3 y3) := by
  obtain ⟨hA, hB⟩ := denoms_ne_zero hc h1 h2
  obtain ⟨hC, hD⟩ := denoms_ne_zero hc h2 h3
  have hL := (denoms_ne_zero hc (onE_add hc h1 h2) h3).2
  have hR := (denoms_ne_zero hc (onE_add hc h2 h3) h1).2
  rw [(add_comm_coords x1 y1 (addX d x2 y2 x3 y3) (addY d x2 y2 x3 y3)).2]
  unfold addX addY tTerm at *
  obtain ⟨hL0, hLe⟩ := fractionY hA hB hL
  obtain ⟨hR0, hRe⟩ := fractionY hC hD hR
  rw [hLe, hRe, ← div_eq_mul_inv, ← div_eq_mul_inv, div_eq_div_iff hL0 hR0]
  linear_combination assocY_cleared h1 h2 h3

end Sys2Proof.Laws.Edwards
end

