-- ==== Sys2Proof/Laws/Prime.lean ====
section
/-!
SUPPORT. p = 2^255 - 19 (R11) is prime: a chain of Lucas certificates, each the factorisation of n - 1 into primes and
a primitive root.
-/

namespace Sys2Proof.Laws

/-- Lucas's test, the prime factors of n - 1 given as a list. -/
theorem prime_of_certificate (n a : Nat) (fs : List Nat) (hprod : fs.prod = n - 1) (hprime : ∀ q ∈ fs, q.Prime)
    (h1 : (a : ZMod n) ^ (n - 1) = 1) (hne : ∀ q ∈ fs, (a : ZMod n) ^ ((n - 1) / q) ≠ 1) : n.Prime := by
  refine lucas_primality n a h1 fun q hq hd => ?_
  rw [← hprod, (Nat.prime_iff.1 hq).dvd_prod_iff] at hd
  obtain ⟨r, hr, hqr⟩ := hd
  obtain rfl := (Nat.prime_dvd_prime_iff_eq hq (hprime r hr)).1 hqr
  exact hne q hr

theorem prime_8574133 : Nat.Prime 8574133 := by
  refine prime_of_certificate _ 2 [2, 2, 3, 7, 103, 991] (by norm_num) ?_ (by norm_num; reduce_mod_char) ?_
  · simp only [List.forall_mem_cons]
    exact ⟨by norm_num, by norm_num, by norm_num, by norm_num, by norm_num, by norm_num, by simp⟩
  · simp only [List.forall_mem_cons]
    refine ⟨?_, ?_, ?_, ?_, ?_, ?_, by simp⟩ <;> norm_num <;> reduce_mod_char <;> decide

theorem prime_2773320623 : Nat.Prime 2773320623 := by
  refine prime_of_certificate _ 5 [2, 2437, 569003] (by norm_num) ?_ (by norm_num; reduce_mod_char) ?_
  · simp only [List.forall_mem_cons]
    exact ⟨by norm_num, by norm_num, by norm_num, by simp⟩
  · simp only [List.forall_mem_cons]
    refine ⟨?_, ?_, ?_, by simp⟩ <;> norm_num <;> reduce_mod_char <;> decide

theorem prime_72106336199 : Nat.Prime 72106336199 := by
  refine prime_of_certificate _ 7 [2, 13, 2773320623] (by norm_num) ?_ (by norm_num; reduce_mod_char) ?_
  · simp only [List.forall_mem_cons]
    exact ⟨by norm_num, by norm_num, prime_2773320623, by simp⟩
  · simp only [List.forall_mem_cons]
    refine ⟨?_, ?_, ?_, by simp⟩ <;> norm_num <;> reduce_mod_char <;> decide

theorem prime_1919519569386763 : Nat.Prime 1919519569386763 := by
  refine prime_of_certificate _ 2 [2, 3, 7, 19, 47, 47, 127, 8574133] (by norm_num) ?_ (by norm_num; reduce_mod_char) ?_
  · simp only [List.forall_mem_cons]
    exact ⟨by norm_num, by norm_num, by norm_num, by norm_num, by norm_num, by norm_num, by norm_num, prime_8574133, by simp⟩
  · simp only [List.forall_mem_cons]
    refine ⟨?_, ?_, ?_, ?_, ?_, ?_, ?_, ?_, by simp⟩ <;> norm_num <;> reduce_mod_char <;> decide

theorem prime_31757755568855353 : Nat.Prime 31757755568855353 := by
  refine prime_of_certificate _ 10 [2, 2, 2, 3, 31, 107, 223, 4153, 430751] (by norm_num) ?_ (by norm_num; reduce_mod_char) ?_
  · simp only [List.forall_mem_cons]
    exact ⟨by norm_num, by norm_num, by norm_num, by norm_num, by norm_num, by norm_num, by norm_num, by norm_num, by norm_num, by simp⟩
  · simp only [List.forall_mem_cons]
    refine ⟨?_, ?_, ?_, ?_, ?_, ?_, ?_, ?_, ?_, by simp⟩ <;> norm_num <;> reduce_mod_char <;> decide

theorem prime_75445702479781427272750846543864801 : Nat.Prime 75445702479781427272750846543864801 := by
  refine prime_of_certificate _ 7 [2, 2, 2, 2, 2, 3, 3, 5, 5, 75707, 72106336199, 1919519569386763] (by norm_num) ?_ (by norm_num; reduce_mod_char) ?_
  · simp only [List.forall_mem_cons]
    exact ⟨by norm_num, by norm_num, by norm_num, by norm_num, by norm_num, by norm_num, by norm_num, by norm_num, by norm_num, by norm_num, prime_72106336199, prime_1919519569386763, by simp⟩
  · simp only [List.forall_mem_cons]
    refine ⟨?_, ?_, ?_, ?_, ?_, ?_, ?_, ?_, ?_, ?_, ?_, ?_, by simp⟩ <;> norm_num <;> reduce_mod_char <;> decide

theorem prime_cofactor : Nat.Prime 74058212732561358302231226437062788676166966415465897661863160754340907 := by
  refine prime_of_certificate _ 2 [2, 3, 353, 57467, 132049, 1923133, 31757755568855353, 75445702479781427272750846543864801] (by norm_num) ?_ (by norm_num; reduce_mod_char) ?_
  · simp only [List.forall_mem_cons]
    exact ⟨by norm_num, by norm_num, by norm_num, by norm_num, by norm_num, by norm_num, prime_31757755568855353, prime_75445702479781427272750846543864801, by simp⟩
  · simp only [List.forall_mem_cons]
    refine ⟨?_, ?_, ?_, ?_, ?_, ?_, ?_, ?_, by simp⟩ <;> norm_num <;> reduce_mod_char <;> decide

theorem fieldPrime_prime : Nat.Prime Machine.fieldPrime := by
  show Nat.Prime 57896044618658097711785492504343953926634992332820282019728792003956564819949
  refine prime_of_certificate _ 2 [2, 2, 3, 65147, 74058212732561358302231226437062788676166966415465897661863160754340907] (by norm_num) ?_ (by norm_num; reduce_mod_char) ?_
  · simp only [List.forall_mem_cons]
    exact ⟨by norm_num, by norm_num, by norm_num, by norm_num, prime_cofactor, by simp⟩
  · simp only [List.forall_mem_cons]
    refine ⟨?_, ?_, ?_, ?_, ?_, by simp⟩ <;> norm_num <;> reduce_mod_char <;> decide

end Sys2Proof.Laws
end

