-- ==== Sys2Proof/Laws/Field.lean ====
section
/-!
SUPPORT. The field operations of the model are those of ZMod p: bounds, casts, and the curve constant d is no square.
-/

namespace Sys2Proof.Machine

open Sys2Proof.Laws

/-- The field GF(p) of R11. -/
abbrev Fp := ZMod fieldPrime

theorem fact_fieldPrime : Fact (Nat.Prime fieldPrime) := ⟨fieldPrime_prime⟩

/-- GF(p) is a field. -/
@[reducible] noncomputable def fpField : Field Fp :=
  haveI := fact_fieldPrime
  inferInstance

theorem fieldPrime_pos : 0 < fieldPrime := fieldPrime_prime.pos

theorem fieldPrime_eq : fieldPrime = 2 ^ 255 - 19 := by norm_num [fieldPrime]

theorem fieldPrime_lt : fieldPrime < 2 ^ 255 := by norm_num [fieldPrime]

theorem groupOrder_lt : groupOrder < 2 ^ 253 := by norm_num [groupOrder]

theorem groupOrder_pos : 0 < groupOrder := by norm_num [groupOrder]

theorem fp_eq_iff {x y : Nat} (hx : x < fieldPrime) (hy : y < fieldPrime) : (x : Fp) = (y : Fp) ↔ x = y := by
  rw [ZMod.natCast_eq_natCast_iff, Nat.ModEq, Nat.mod_eq_of_lt hx, Nat.mod_eq_of_lt hy]

/-! ### Bounds -/

theorem fpAdd_lt (x y : Nat) : fpAdd x y < fieldPrime := Nat.mod_lt _ fieldPrime_pos
theorem fpNeg_lt (x : Nat) : fpNeg x < fieldPrime := Nat.mod_lt _ fieldPrime_pos
theorem fpSub_lt (x y : Nat) : fpSub x y < fieldPrime := Nat.mod_lt _ fieldPrime_pos
theorem fpMul_lt (x y : Nat) : fpMul x y < fieldPrime := Nat.mod_lt _ fieldPrime_pos
theorem fd_lt (w : Slot) : fd w < fieldPrime := Nat.mod_lt _ fieldPrime_pos
theorem mulAddMod_lt (a b c : Nat) : mulAddMod a b c < groupOrder := Nat.mod_lt _ groupOrder_pos

theorem fpPow_lt (x e : Nat) : fpPow x e < fieldPrime := Nat.mod_lt _ fieldPrime_pos

theorem fpInv_lt (x : Nat) : fpInv x < fieldPrime := fpPow_lt x _

/-! ### Casts -/

@[simp] theorem cast_fpAdd (x y : Nat) : (fpAdd x y : Fp) = x + y := by simp [fpAdd]

@[simp] theorem cast_fpMul (x y : Nat) : (fpMul x y : Fp) = x * y := by simp [fpMul]

@[simp] theorem cast_fpNeg (x : Nat) : (fpNeg x : Fp) = -x := by
  rw [fpNeg, ZMod.natCast_mod, Nat.cast_sub (Nat.mod_lt _ fieldPrime_pos).le]
  simp

@[simp] theorem cast_fpSub (x y : Nat) : (fpSub x y : Fp) = x - y := by
  rw [fpSub, ZMod.natCast_mod, Nat.cast_add, Nat.cast_sub (Nat.mod_lt _ fieldPrime_pos).le]
  simp [sub_eq_add_neg]

theorem fpPowDigits_mod (x fuel e : Nat) (h : e < 256 ^ fuel) :
    fpPowDigits x fuel e % fieldPrime = x ^ e % fieldPrime := by
  induction fuel generalizing e with
  | zero => simp [fpPowDigits, show e = 0 by simpa using h]
  | succ fuel ih =>
    have h' : e / 256 < 256 ^ fuel := by rw [pow_succ] at h; omega
    rw [fpPowDigits, Nat.mod_mod, Nat.mul_mod, Nat.pow_mod, ih _ h', ← Nat.pow_mod, ← Nat.mul_mod, ← pow_mul, ← pow_add,
      Nat.div_add_mod' e 256]

/-- Exponentiation by digits is exponentiation (R105). -/
theorem fpPow_eq (x e : Nat) (h : e < 2 ^ 256) : fpPow x e = x ^ e % fieldPrime := by
  have h' := fpPowDigits_mod (x % fieldPrime) 32 e (lt_of_lt_of_eq h (by norm_num))
  rw [← Nat.pow_mod] at h'
  exact (Nat.mod_eq_of_lt (fpPow_lt x e)).symm.trans h'

theorem cast_fpPow (x e : Nat) (h : e < 2 ^ 256) : (fpPow x e : Fp) = (x : Fp) ^ e := by
  rw [fpPow_eq x e h]; simp

/-- Fermat: the power p - 2 is the inverse, and 0 for 0 (R105). -/
@[simp] theorem cast_fpInv (x : Nat) : (fpInv x : Fp) = (x : Fp)⁻¹ := by
  have := fact_fieldPrime
  rw [fpInv, cast_fpPow x _ (by norm_num [fieldPrime])]
  by_cases hx : (x : Fp) = 0
  · rw [hx, inv_zero, zero_pow (by norm_num [fieldPrime])]
  · refine eq_inv_of_mul_eq_one_left ?_
    rw [← pow_succ, show fieldPrime - 2 + 1 = fieldPrime - 1 by norm_num [fieldPrime]]
    exact ZMod.pow_card_sub_one_eq_one hx

theorem fd_fe {v : Nat} (h : v < fieldPrime) : fd (fe v) = v := by
  have h2 : v < 2 ^ 255 := h.trans fieldPrime_lt
  rw [fd, fe, toNat_leb32 (h2.trans (by norm_num)), Nat.mod_eq_of_lt h2, Nat.mod_eq_of_lt h]

/-! ### The curve constant -/

theorem curveD_pow : (curveD : Fp) ^ ((fieldPrime - 1) / 2) = -1 := by
  have h : fpPow curveD ((fieldPrime - 1) / 2) = fieldPrime - 1 := by decide +kernel
  have h' := cast_fpPow curveD ((fieldPrime - 1) / 2) (by norm_num [fieldPrime])
  rw [← h', h, Nat.cast_sub fieldPrime_pos]
  simp

theorem sqrtMinusOne_sq : (sqrtMinusOne : Fp) * (sqrtMinusOne : Fp) = -1 := by
  have h : fpAdd (fpMul sqrtMinusOne sqrtMinusOne) 1 = 0 := by decide +kernel
  have h' := congrArg (Nat.cast : Nat → Fp) h
  simp only [cast_fpAdd, cast_fpMul, Nat.cast_one, Nat.cast_zero] at h'
  exact eq_neg_of_add_eq_zero_left h'

theorem fp_two_ne_zero : (2 : Fp) ≠ 0 := by
  intro h
  have : ((2 : Nat) : Fp) = ((0 : Nat) : Fp) := by simpa using h
  rw [fp_eq_iff (by norm_num [fieldPrime]) fieldPrime_pos] at this
  exact absurd this (by norm_num)

/-- d is not a square modulo p, so the law of R16 is complete. -/
theorem curveD_nonsquare (r : Fp) : r * r ≠ (curveD : Fp) := by
  have := fact_fieldPrime
  intro h
  have h1 : (curveD : Fp) ^ ((fieldPrime - 1) / 2) = r ^ (fieldPrime - 1) := by
    rw [← h, ← pow_two, ← pow_mul, show 2 * ((fieldPrime - 1) / 2) = fieldPrime - 1 by norm_num [fieldPrime]]
  have hr : r ≠ 0 := by
    rintro rfl
    have h0 : (curveD : Fp) = ((0 : Nat) : Fp) := by simpa using h.symm
    rw [fp_eq_iff (by norm_num [fieldPrime, curveD]) fieldPrime_pos] at h0
    exact absurd h0 (by norm_num [curveD])
  rw [ZMod.pow_card_sub_one_eq_one hr, curveD_pow] at h1
  exact fp_two_ne_zero (by linear_combination -h1)

theorem edwards_complete : @Edwards.Complete Fp fpField (curveD : Fp) :=
  letI := fpField
  { two := fp_two_ne_zero
    negOne := ⟨(sqrtMinusOne : Fp), sqrtMinusOne_sq⟩
    nonsquare := curveD_nonsquare }

end Sys2Proof.Machine
end

