-- ==== Sys2Proof/Laws/Curve.lean ====
section
/-!
SUPPORT. The points of E with the model's addition: closed, commutative, associative, with O and negation (R14, R16).
-/

namespace Sys2Proof.Machine

open Sys2Proof.Laws

theorem point_ext_cast {q r : Point} (hq : q.x < fieldPrime ∧ q.y < fieldPrime) (hr : r.x < fieldPrime ∧ r.y < fieldPrime)
    (hx : (q.x : Fp) = r.x) (hy : (q.y : Fp) = r.y) : q = r := by
  obtain ⟨qx, qy⟩ := q
  obtain ⟨rx, ry⟩ := r
  rw [fp_eq_iff hq.1 hr.1] at hx
  rw [fp_eq_iff hq.2 hr.2] at hy
  simp_all

theorem onCurve_iff (q : Point) :
    OnCurve q ↔ q.x < fieldPrime ∧ q.y < fieldPrime ∧ @Edwards.OnE Fp fpField (curveD : Fp) q.x q.y := by
  refine and_congr_right fun _ => and_congr_right fun _ => ?_
  rw [← Int.dvd_iff_emod_eq_zero, ← ZMod.intCast_zmod_eq_zero_iff_dvd]
  unfold Edwards.OnE
  push_cast
  constructor <;> intro h <;> linear_combination -h

theorem OnCurve.lt {q : Point} (h : OnCurve q) : q.x < fieldPrime ∧ q.y < fieldPrime := ⟨h.1, h.2.1⟩

theorem Point.add_lt (q r : Point) : (q.add r).x < fieldPrime ∧ (q.add r).y < fieldPrime :=
  ⟨fpMul_lt _ _, fpMul_lt _ _⟩

theorem Point.neg_lt {q : Point} (h : q.y < fieldPrime) : q.neg.x < fieldPrime ∧ q.neg.y < fieldPrime :=
  ⟨fpNeg_lt _, h⟩

/-- The model's sum is the Edwards sum over GF(p). -/
theorem cast_add (q r : Point) :
    ((q.add r).x : Fp) = @Edwards.addX Fp fpField (curveD : Fp) q.x q.y r.x r.y ∧
    ((q.add r).y : Fp) = @Edwards.addY Fp fpField (curveD : Fp) q.x q.y r.x r.y := by
  constructor <;> simp [Point.add, Edwards.addX, Edwards.addY, Edwards.tTerm]

@[simp] theorem cast_neg_x (q : Point) : (q.neg.x : Fp) = -(q.x : Fp) := cast_fpNeg q.x

@[simp] theorem neg_y (q : Point) : q.neg.y = q.y := rfl

theorem onCurve_zero : OnCurve Point.zero := by decide +kernel

theorem onCurve_basePoint : OnCurve basePoint := by decide +kernel

theorem OnCurve.add {q r : Point} (hq : OnCurve q) (hr : OnCurve r) : OnCurve (q.add r) := by
  let _ := fpField
  rw [onCurve_iff] at *
  refine ⟨(Point.add_lt q r).1, (Point.add_lt q r).2, ?_⟩
  rw [(cast_add q r).1, (cast_add q r).2]
  exact Edwards.onE_add edwards_complete hq.2.2 hr.2.2

theorem OnCurve.neg {q : Point} (hq : OnCurve q) : OnCurve q.neg := by
  rw [onCurve_iff] at *
  refine ⟨fpNeg_lt _, hq.2.1, ?_⟩
  have h := hq.2.2
  unfold Edwards.OnE at *
  rw [cast_neg_x, neg_y]
  linear_combination h

/-- The denominators of R16 are invertible on E. -/
theorem OnCurve.denoms {q r : Point} (hq : OnCurve q) (hr : OnCurve r) :
    (1 : Fp) + curveD * q.x * r.x * q.y * r.y ≠ 0 ∧ (1 : Fp) - curveD * q.x * r.x * q.y * r.y ≠ 0 := by
  rw [onCurve_iff] at *
  exact @Edwards.denoms_ne_zero Fp fpField (curveD : Fp) edwards_complete _ _ _ _ hq.2.2 hr.2.2

theorem Point.add_comm (q r : Point) : q.add r = r.add q := by
  let _ := fpField
  refine point_ext_cast (Point.add_lt q r) (Point.add_lt r q) ?_ ?_
  · rw [(cast_add q r).1, (cast_add r q).1, (Edwards.add_comm_coords _ _ _ _).1]
  · rw [(cast_add q r).2, (cast_add r q).2, (Edwards.add_comm_coords _ _ _ _).2]

theorem OnCurve.add_assoc {q r u : Point} (hq : OnCurve q) (hr : OnCurve r) (hu : OnCurve u) :
    (q.add r).add u = q.add (r.add u) := by
  let _ := fpField
  rw [onCurve_iff] at *
  refine point_ext_cast (Point.add_lt _ _) (Point.add_lt _ _) ?_ ?_
  · rw [(cast_add (q.add r) u).1, (cast_add q (r.add u)).1, (cast_add q r).1, (cast_add q r).2, (cast_add r u).1, (cast_add r u).2]
    exact Edwards.addX_assoc edwards_complete hq.2.2 hr.2.2 hu.2.2
  · rw [(cast_add (q.add r) u).2, (cast_add q (r.add u)).2, (cast_add q r).1, (cast_add q r).2, (cast_add r u).1, (cast_add r u).2]
    exact Edwards.addY_assoc edwards_complete hq.2.2 hr.2.2 hu.2.2

/-- O is neutral for every pair of field elements. -/
theorem Point.add_zero {q : Point} (h : q.x < fieldPrime ∧ q.y < fieldPrime) : q.add Point.zero = q := by
  let _ := fpField
  refine point_ext_cast (Point.add_lt _ _) h ?_ ?_
  · rw [(cast_add q _).1]; simp [Edwards.addX, Edwards.tTerm, Point.zero]
  · rw [(cast_add q _).2]; simp [Edwards.addY, Edwards.tTerm, Point.zero]

theorem Point.zero_add {q : Point} (h : q.x < fieldPrime ∧ q.y < fieldPrime) : Point.zero.add q = q := by
  rw [Point.add_comm, Point.add_zero h]

/-- Q + (-Q) = O. -/
theorem OnCurve.add_neg {q : Point} (hq : OnCurve q) : q.add q.neg = Point.zero := by
  let _ := fpField
  have hd := hq.denoms hq.neg
  have h := ((onCurve_iff q).1 hq).2.2
  unfold Edwards.OnE at h
  rw [cast_neg_x, neg_y] at hd
  refine point_ext_cast (Point.add_lt _ _) onCurve_zero.lt ?_ ?_
  · rw [(cast_add q _).1, cast_neg_x, neg_y]
    unfold Edwards.addX
    rw [show (q.x : Fp) * q.y + q.y * -q.x = 0 by ring, zero_mul]
    simp [Point.zero]
  · rw [(cast_add q _).2, cast_neg_x, neg_y]
    unfold Edwards.addY Edwards.tTerm
    rw [show (q.y : Fp) * q.y + q.x * -q.x = 1 - curveD * q.x * -q.x * q.y * q.y by linear_combination -h,
      mul_inv_cancel₀ hd.2]
    simp [Point.zero]

end Sys2Proof.Machine
end

