-- ==== Sys2Proof/Laws/Decoding.lean ====
section
/-!
SUPPORT. Point decoding (R19): the root search finds a root whenever there is one, and what the decoder makes of it.
-/

namespace Sys2Proof.Machine

/-! ### The equation of R19 over GF(p) -/

theorem isRootFor_iff (w : Slot) (x : Nat) :
    IsRootFor w x ↔ x < fieldPrime ∧ (x : Fp) * x * (curveD * (fd w : Fp) * fd w + 1) = (fd w : Fp) * fd w - 1 := by
  refine and_congr_right fun _ => ?_
  rw [← Int.dvd_iff_emod_eq_zero, ← ZMod.intCast_zmod_eq_zero_iff_dvd, fieldValue_eq]
  push_cast
  constructor <;> intro h <;> linear_combination h

/-- v = d·y^2 + 1 is never 0 (R19), d being no square. -/
theorem decode_denom_ne_zero (y : Fp) : (curveD : Fp) * y * y + 1 ≠ 0 := by
  have := fact_fieldPrime
  intro h
  have hy : y ≠ 0 := by rintro rfl; simp at h
  apply curveD_nonsquare ((sqrtMinusOne : Fp) * y⁻¹)
  have := sqrtMinusOne_sq
  field_simp
  linear_combination this - h

/-! ### The root search -/

/-- What the search finds is a root of x^2·v = u. -/
theorem sqrtRatio_some {u v r : Nat} (h : sqrtRatio u v = some r) : r < fieldPrime ∧ fpMul (fpMul r r) v = u := by
  unfold sqrtRatio at h
  simp only at h
  split at h
  · injection h with h; subst h; exact ⟨fpPow_lt _ _, ‹_›⟩
  · split at h
    · injection h with h; subst h; exact ⟨fpMul_lt _ _, ‹_›⟩
    · cases h

/-- The search finds a root when there is one. -/
theorem sqrtRatio_exists {u v : Nat} (hu : u < fieldPrime) (hv : (v : Fp) ≠ 0) {x : Fp} (hx : x * x * v = u) :
    ∃ r, sqrtRatio u v = some r := by
  have := fact_fieldPrime
  unfold sqrtRatio
  simp only
  split
  · exact ⟨_, rfl⟩
  · split
    · exact ⟨_, rfl⟩
    · rename_i h1 h2
      exfalso
      set r := fpPow (fpMul u (fpInv v)) ((fieldPrime + 3) / 8) with hr
      have ha : (r : Fp) = (x * x) ^ ((fieldPrime + 3) / 8) := by
        rw [hr, cast_fpPow _ _ (by norm_num [fieldPrime])]
        congr 1
        rw [cast_fpMul, cast_fpInv, ← hx]
        field_simp
      have h4 : ((r : Fp) * r) * (r * r) = (x * x) * (x * x) := by
        rw [ha, ← pow_add, ← pow_add]
        by_cases h0 : x = 0
        · subst h0
          rw [zero_mul, zero_pow (by norm_num [fieldPrime]), zero_mul]
        · rw [show (fieldPrime + 3) / 8 + (fieldPrime + 3) / 8 + ((fieldPrime + 3) / 8 + (fieldPrime + 3) / 8) =
              (fieldPrime - 1) / 2 + 2 by norm_num [fieldPrime], pow_add, ← pow_two x, ← pow_mul x,
            show 2 * ((fieldPrime - 1) / 2) = fieldPrime - 1 by norm_num [fieldPrime], ZMod.pow_card_sub_one_eq_one h0]
          ring
      have h5 : ((r : Fp) * r - x * x) * (r * r + x * x) = 0 := by linear_combination h4
      rcases mul_eq_zero.1 h5 with h | h
      · apply h1
        rw [← fp_eq_iff (fpMul_lt _ _) hu, cast_fpMul, cast_fpMul, sub_eq_zero.1 h, hx]
      · apply h2
        rw [← fp_eq_iff (fpMul_lt _ _) hu, cast_fpMul, cast_fpMul, cast_fpMul, ← hx]
        linear_combination (r : Fp) * r * v * sqrtMinusOne_sq - v * h

theorem isRootFor_of_decodeRoot {w : Slot} {r : Nat} (h : decodeRoot (fd w) = some r) : IsRootFor w r := by
  obtain ⟨h1, h2⟩ := sqrtRatio_some h
  have h3 := congrArg (Nat.cast : Nat → Fp) h2
  simp only [cast_fpMul, cast_fpSub, cast_fpAdd, Nat.cast_mul, Nat.cast_one] at h3
  exact (isRootFor_iff w r).2 ⟨h1, by linear_combination h3⟩

theorem decodeRoot_of_isRootFor {w : Slot} {x : Nat} (h : IsRootFor w x) : ∃ r, decodeRoot (fd w) = some r := by
  rw [isRootFor_iff] at h
  have hv : ((fpAdd (curveD * (fd w * fd w)) 1 : Nat) : Fp) = curveD * (fd w : Fp) * fd w + 1 := by
    simp only [cast_fpAdd, Nat.cast_mul, Nat.cast_one]; ring
  refine sqrtRatio_exists (fpSub_lt _ _) (by rw [hv]; exact decode_denom_ne_zero _) (x := (x : Fp)) ?_
  rw [hv, h.2]
  simp only [cast_fpSub, Nat.cast_mul, Nat.cast_one]

/-! ### What the decoder makes of the root -/

theorem sign_bit (w : Slot) : w.toNat / 2 ^ 255 = (w.getLsbD 255).toNat := by
  have h : w.toNat / 2 ^ 255 < 2 := by have := w.isLt; omega
  rw [BitVec.getLsbD, Nat.testBit_eq_decide_div_mod_eq]
  generalize w.toNat / 2 ^ 255 = k at *
  rcases (show k = 0 ∨ k = 1 by omega) with rfl | rfl <;> rfl

theorem pointDecode_of_none {w : Slot} (h : decodeRoot (fd w) = none) : pointDecode w = .error .notOnCurve := by
  rw [pointDecode, h, pointOfRoot]

theorem pointDecode_of_some {w : Slot} {r : Nat} (h : decodeRoot (fd w) = some r) :
    pointDecode w =
      if r = 0 ∧ (w.getLsbD 255).toNat = 1 then .error .negZero
      else if r % 2 = (w.getLsbD 255).toNat then .ok ⟨r, fd w⟩ else .ok ⟨fpNeg r, fd w⟩ := by
  rw [pointDecode, h, pointOfRoot, sign_bit, signOf]

/-- Negating a non-zero field element changes its sign (R18). -/
theorem fpNeg_mod_two {x : Nat} (hx : x < fieldPrime) (h0 : x ≠ 0) : fpNeg x % 2 = 1 - x % 2 := by
  have h : fpNeg x = fieldPrime - x := by
    unfold fpNeg
    rw [Nat.mod_eq_of_lt hx, Nat.mod_eq_of_lt (by omega)]
  rw [h]
  unfold fieldPrime at *
  omega

/-- The two roots of an encoding are each other's negations. -/
theorem roots_of_isRootFor {w : Slot} {x z : Nat} (hx : IsRootFor w x) (hz : IsRootFor w z) :
    z = x ∨ (z : Fp) = -x := by
  have := fact_fieldPrime
  rw [isRootFor_iff] at hx hz
  have h : ((z : Fp) - x) * (z + x) * (curveD * (fd w : Fp) * fd w + 1) = 0 := by linear_combination hz.2 - hx.2
  rcases mul_eq_zero.1 h with h | h
  · rcases mul_eq_zero.1 h with h | h
    · exact .inl ((fp_eq_iff hz.1 hx.1).1 (sub_eq_zero.1 h))
    · exact .inr (eq_neg_of_add_eq_zero_left h)
  · exact absurd h (decode_denom_ne_zero _)

end Sys2Proof.Machine
end

