-- ==== Sys2Proof/Laws/Encoding.lean ====
section
/-!
SUPPORT. The fields of a packed word, the operand kinds read back what they encode, and what each kind refuses.
-/

namespace Sys2Proof

/-! ### The fields of a packed word (R80) -/

section
variable (op : BitVec 8) (d a b c : BitVec 4)

@[simp] theorem opField_pack : opField (pack op d a b c) = op := by
  apply BitVec.eq_of_getLsbD_eq; intro i hi; simp only [opField, pack, BitVec.getLsbD_extractLsb', BitVec.getLsbD_append]; simp [hi]

@[simp] theorem dField_pack : dField (pack op d a b c) = d := by
  apply BitVec.eq_of_getLsbD_eq; intro i hi; simp only [dField, pack, BitVec.getLsbD_extractLsb', BitVec.getLsbD_append]; simp [hi]

@[simp] theorem aField_pack : aField (pack op d a b c) = a := by
  apply BitVec.eq_of_getLsbD_eq; intro i hi; simp only [aField, pack, BitVec.getLsbD_extractLsb', BitVec.getLsbD_append]
  simp [hi, show ¬ 12 + i < 8 by omega, show ¬ 12 + i - 8 < 4 by omega, show 12 + i - 8 - 4 = i by omega]

@[simp] theorem bField_pack : bField (pack op d a b c) = b := by
  apply BitVec.eq_of_getLsbD_eq; intro i hi; simp only [bField, pack, BitVec.getLsbD_extractLsb', BitVec.getLsbD_append]
  simp [hi, show ¬ 16 + i < 8 by omega, show ¬ 16 + i - 8 < 4 by omega, show ¬ 16 + i - 8 - 4 < 4 by omega,
    show 16 + i - 8 - 4 - 4 = i by omega]

@[simp] theorem cField_pack : cField (pack op d a b c) = c := by
  apply BitVec.eq_of_getLsbD_eq; intro i hi; simp only [cField, pack, BitVec.getLsbD_extractLsb', BitVec.getLsbD_append]
  simp [hi, show ¬ 20 + i < 8 by omega, show ¬ 20 + i - 8 < 4 by omega, show ¬ 20 + i - 8 - 4 < 4 by omega,
    show ¬ 20 + i - 8 - 4 - 4 < 4 by omega, show 20 + i - 8 - 4 - 4 - 4 = i by omega]

@[simp] theorem rsvField_pack : rsvField (pack op d a b c) = 0 := by
  apply BitVec.eq_of_getLsbD_eq; intro i hi; simp only [rsvField, pack, BitVec.getLsbD_extractLsb', BitVec.getLsbD_append]
  simp [show ¬ 24 + i < 8 by omega, show ¬ 24 + i - 8 < 4 by omega, show ¬ 24 + i - 8 - 4 < 4 by omega,
    show ¬ 24 + i - 8 - 4 - 4 < 4 by omega, show ¬ 24 + i - 8 - 4 - 4 - 4 < 4 by omega]

end

/-- A word is its fields, bits 31:24 included (R80). -/
theorem eq_pack_of_rsv {w : Word} (h : rsvField w = 0) : w = pack (opField w) (dField w) (aField w) (bField w) (cField w) := by
  apply BitVec.eq_of_getLsbD_eq
  intro i hi
  by_cases h24 : i < 24
  · simp only [pack, opField, dField, aField, bField, cField, BitVec.getLsbD_append, BitVec.getLsbD_extractLsb']
    split_ifs <;> simp [*] <;> (congr 1; omega)
  · have h1 : w.getLsbD i = (rsvField w).getLsbD (i - 24) := by
      simp [rsvField, show i - 24 < 8 by omega, show 24 + (i - 24) = i by omega]
    rw [h1, h]
    simp only [pack, BitVec.getLsbD_append]
    simp [show ¬ i < 8 by omega, show ¬ i - 8 < 4 by omega, show ¬ i - 8 - 4 < 4 by omega,
      show ¬ i - 8 - 4 - 4 < 4 by omega, show ¬ i - 8 - 4 - 4 - 4 < 4 by omega]

/-- The formula w = op | d<<8 | a<<12 | b<<16 | c<<20 of R87. -/
theorem pack_toNat (op : BitVec 8) (d a b c : BitVec 4) :
    (pack op d a b c).toNat = op.toNat ||| d.toNat <<< 8 ||| a.toNat <<< 12 ||| b.toNat <<< 16 ||| c.toNat <<< 20 := by
  have h1 : ((0 : BitVec 8) ++ c).toNat = c.toNat := by rw [BitVec.toNat_append]; simp
  have h2 : ((0 : BitVec 8) ++ c ++ b).toNat = c.toNat <<< 4 ||| b.toNat := by rw [BitVec.toNat_append, h1]
  have h3 : ((0 : BitVec 8) ++ c ++ b ++ a).toNat = (c.toNat <<< 4 ||| b.toNat) <<< 4 ||| a.toNat := by
    rw [BitVec.toNat_append, h2]
  have h4 : ((0 : BitVec 8) ++ c ++ b ++ a ++ d).toNat = ((c.toNat <<< 4 ||| b.toNat) <<< 4 ||| a.toNat) <<< 4 ||| d.toNat := by
    rw [BitVec.toNat_append, h3]
  have h5 : (pack op d a b c).toNat = ((0 : BitVec 8) ++ c ++ b ++ a ++ d).toNat <<< 8 ||| op.toNat := BitVec.toNat_append _ _
  rw [h5, h4]
  simp only [Nat.shiftLeft_or_distrib, ← Nat.shiftLeft_add, Nat.reduceAdd]
  simp only [Nat.or_comm, Nat.or_assoc]
/-! ### Operand kinds (R81) -/

theorem fieldS_toNat (i : SlotIx) : (fieldS i).toNat = i.val := rfl

theorem fieldSP_toNat (h : PairIx) : (fieldSP h).toNat = 2 * h.val := by
  have := h.isLt
  simp only [fieldSP, BitVec.toNat_ofNat]
  omega

theorem fieldPR_toNat (j : PointIx) : (fieldPR j).toNat = j.val := by
  have := j.isLt
  simp only [fieldPR, BitVec.toNat_ofNat]
  omega

@[simp] theorem readS_fieldS (i : SlotIx) : readS (fieldS i) = i := rfl

@[simp] theorem fieldS_readS (f : BitVec 4) : fieldS (readS f) = f := rfl

@[simp] theorem readSP_fieldSP (h : PairIx) : readSP (fieldSP h) = .ok h := by revert h; decide

@[simp] theorem readPR_fieldPR (j : PointIx) : readPR (fieldPR j) = .ok j := by revert j; decide

@[simp] theorem readZ_zero : readZ 0#4 = .ok () := rfl

theorem readSP_ok {f : BitVec 4} {h : PairIx} (e : readSP f = .ok h) : f = fieldSP h := by
  revert f h; decide

theorem readPR_ok {f : BitVec 4} {j : PointIx} (e : readPR f = .ok j) : f = fieldPR j := by
  revert f j; decide

theorem readZ_ok {f : BitVec 4} {u : Unit} (e : readZ f = .ok u) : f = 0 := by
  revert f u; decide

/-! ### Masks (R83) -/

theorem opField_and (w m : Word) : opField (w &&& m) = opField w &&& opField m := BitVec.extractLsb'_and
theorem dField_and (w m : Word) : dField (w &&& m) = dField w &&& dField m := BitVec.extractLsb'_and
theorem aField_and (w m : Word) : aField (w &&& m) = aField w &&& aField m := BitVec.extractLsb'_and
theorem bField_and (w m : Word) : bField (w &&& m) = bField w &&& bField m := BitVec.extractLsb'_and
theorem cField_and (w m : Word) : cField (w &&& m) = cField w &&& cField m := BitVec.extractLsb'_and
theorem rsvField_and (w m : Word) : rsvField (w &&& m) = rsvField w &&& rsvField m := BitVec.extractLsb'_and

theorem pack_and (op : BitVec 8) (d a b c : BitVec 4) (m : Word) :
    pack op d a b c &&& m = pack (op &&& opField m) (d &&& dField m) (a &&& aField m) (b &&& bField m) (c &&& cField m) := by
  have h : rsvField (pack op d a b c &&& m) = 0 := by rw [rsvField_and, rsvField_pack]; exact BitVec.zero_and
  rw [eq_pack_of_rsv h, opField_and, dField_and, aField_and, bField_and, cField_and, opField_pack, dField_pack,
    aField_pack, bField_pack, cField_pack]

/-- A pair index is even: bit 0 of its field is 0. -/
@[simp] theorem fieldSP_and (h : PairIx) : fieldSP h &&& 1#4 = 0#4 := by revert h; decide

/-- A point register index is at most 7: bit 3 of its field is 0. -/
@[simp] theorem fieldPR_and (j : PointIx) : fieldPR j &&& 8#4 = 0#4 := by revert j; decide

end Sys2Proof
end

