-- ==== Sys2Proof/Laws/Multiple.lean ====
section
/-!
SUPPORT. Multiples of a point of E by the recursion of R17: on the curve, additive in the scalar, and what the model's
doubling and adding computes.
-/

namespace Sys2Proof.Machine

theorem OnCurve.multiple {q : Point} (hq : OnCurve q) (k : Nat) : OnCurve (q.multiple k) := by
  induction k with
  | zero => exact onCurve_zero
  | succ k ih => exact ih.add hq

theorem OnCurve.multiple_add {q : Point} (hq : OnCurve q) (m n : Nat) :
    q.multiple (m + n) = (q.multiple m).add (q.multiple n) := by
  induction n with
  | zero => exact (Point.add_zero (hq.multiple m).lt).symm
  | succ n ih =>
    rw [← Nat.add_assoc, Point.multiple, Point.multiple, ih, (hq.multiple m).add_assoc (hq.multiple n) hq]

theorem OnCurve.multiple_mul {q : Point} (hq : OnCurve q) (m n : Nat) :
    q.multiple (m * n) = (q.multiple m).multiple n := by
  induction n with
  | zero => rfl
  | succ n ih => rw [Nat.mul_succ, hq.multiple_add, ih, Point.multiple]

theorem zero_multiple (n : Nat) : Point.zero.multiple n = Point.zero := by
  induction n with
  | zero => rfl
  | succ n ih => rw [Point.multiple, ih, Point.add_zero onCurve_zero.lt]

theorem OnCurve.smulBits {q : Point} (hq : OnCurve q) {fuel k : Nat} (h : k < 2 ^ fuel) :
    Point.smulBits q fuel k = q.multiple k := by
  induction fuel generalizing k with
  | zero =>
    obtain rfl : k = 0 := by simpa using h
    rfl
  | succ fuel ih =>
    simp only [Point.smulBits]
    rw [ih (k := k / 2) (by rw [pow_succ] at h; omega), ← hq.multiple_add]
    split
    · rw [← Point.multiple]; congr 1; omega
    · congr 1; omega

/-- Doubling and adding computes the multiple of R17. -/
theorem OnCurve.smul {q : Point} (hq : OnCurve q) (k : Nat) : Point.smul k q = q.multiple k :=
  hq.smulBits Nat.lt_log2_self

end Sys2Proof.Machine
end

