-- ==== Sys2Proof/Laws/PerInstr.lean ====
section
/-!
SUPPORT. One lemma per command: the word of the command belongs to its row of the opcode map (R83).
-/

namespace Sys2Proof.Laws.TableMatch

/-- Some row of the opcode map has the command's mnemonic and matches its word: (w & mask) = match (R83). -/
def Statement (i : Instr) : Prop := ∃ r ∈ opRows, r.mnemonic = i.mnemonic ∧ encode i &&& r.mask = r.value

theorem fadd (d a b : SlotIx) : Statement (.fadd d a b) := by
  refine ⟨⟨"FADD", 0x00000001, 0xFFF000FF⟩, by decide, rfl, ?_⟩
  simp only [encode, pack_and]
  simp [opField, dField, aField, bField, cField]
  try decide

theorem fsub (d a b : SlotIx) : Statement (.fsub d a b) := by
  refine ⟨⟨"FSUB", 0x00000002, 0xFFF000FF⟩, by decide, rfl, ?_⟩
  simp only [encode, pack_and]
  simp [opField, dField, aField, bField, cField]
  try decide

theorem fmul (d a b : SlotIx) : Statement (.fmul d a b) := by
  refine ⟨⟨"FMUL", 0x00000003, 0xFFF000FF⟩, by decide, rfl, ?_⟩
  simp only [encode, pack_and]
  simp [opField, dField, aField, bField, cField]
  try decide

theorem fsq (d a : SlotIx) : Statement (.fsq d a) := by
  refine ⟨⟨"FSQ", 0x00000004, 0xFFFF00FF⟩, by decide, rfl, ?_⟩
  simp only [encode, pack_and]
  simp [opField, dField, aField, bField, cField]
  try decide

theorem finv (d a : SlotIx) : Statement (.finv d a) := by
  refine ⟨⟨"FINV", 0x00000005, 0xFFFF00FF⟩, by decide, rfl, ?_⟩
  simp only [encode, pack_and]
  simp [opField, dField, aField, bField, cField]
  try decide

theorem fneg (d a : SlotIx) : Statement (.fneg d a) := by
  refine ⟨⟨"FNEG", 0x00000006, 0xFFFF00FF⟩, by decide, rfl, ?_⟩
  simp only [encode, pack_and]
  simp [opField, dField, aField, bField, cField]
  try decide

theorem fcswap (d a b : SlotIx) : Statement (.fcswap d a b) := by
  refine ⟨⟨"FCSWAP", 0x00000007, 0xFFF000FF⟩, by decide, rfl, ?_⟩
  simp only [encode, pack_and]
  simp [opField, dField, aField, bField, cField]
  try decide

theorem fcanon (d a : SlotIx) : Statement (.fcanon d a) := by
  refine ⟨⟨"FCANON", 0x00000008, 0xFFFF00FF⟩, by decide, rfl, ?_⟩
  simp only [encode, pack_and]
  simp [opField, dField, aField, bField, cField]
  try decide

theorem sred (d : SlotIx) (a : PairIx) : Statement (.sred d a) := by
  refine ⟨⟨"SRED", 0x00000010, 0xFFFF10FF⟩, by decide, rfl, ?_⟩
  simp only [encode, pack_and]
  simp [opField, dField, aField, bField, cField]
  try decide

theorem smuladd (d a b c : SlotIx) : Statement (.smuladd d a b c) := by
  refine ⟨⟨"SMULADD", 0x00000011, 0xFF0000FF⟩, by decide, rfl, ?_⟩
  simp only [encode, pack_and]
  simp [opField, dField, aField, bField, cField]
  try decide

theorem pdec (d : PointIx) (a : SlotIx) : Statement (.pdec d a) := by
  refine ⟨⟨"PDEC", 0x00000020, 0xFFFF08FF⟩, by decide, rfl, ?_⟩
  simp only [encode, pack_and]
  simp [opField, dField, aField, bField, cField]
  try decide

theorem pdecn (d : PointIx) (a : SlotIx) : Statement (.pdecn d a) := by
  refine ⟨⟨"PDECN", 0x00000021, 0xFFFF08FF⟩, by decide, rfl, ?_⟩
  simp only [encode, pack_and]
  simp [opField, dField, aField, bField, cField]
  try decide

theorem penc (d : SlotIx) (a : PointIx) : Statement (.penc d a) := by
  refine ⟨⟨"PENC", 0x00000022, 0xFFFF80FF⟩, by decide, rfl, ?_⟩
  simp only [encode, pack_and]
  simp [opField, dField, aField, bField, cField]
  try decide

theorem padd (d a b : PointIx) : Statement (.padd d a b) := by
  refine ⟨⟨"PADD", 0x00000023, 0xFFF888FF⟩, by decide, rfl, ?_⟩
  simp only [encode, pack_and]
  simp [opField, dField, aField, bField, cField]
  try decide

theorem pdbl (d a : PointIx) : Statement (.pdbl d a) := by
  refine ⟨⟨"PDBL", 0x00000024, 0xFFFF88FF⟩, by decide, rfl, ?_⟩
  simp only [encode, pack_and]
  simp [opField, dField, aField, bField, cField]
  try decide

theorem pneg (d a : PointIx) : Statement (.pneg d a) := by
  refine ⟨⟨"PNEG", 0x00000025, 0xFFFF88FF⟩, by decide, rfl, ?_⟩
  simp only [encode, pack_and]
  simp [opField, dField, aField, bField, cField]
  try decide

theorem psmb (d : PointIx) (a : SlotIx) : Statement (.psmb d a) := by
  refine ⟨⟨"PSMB", 0x00000026, 0xFFFF08FF⟩, by decide, rfl, ?_⟩
  simp only [encode, pack_and]
  simp [opField, dField, aField, bField, cField]
  try decide

theorem pdsm (d : PointIx) (a : SlotIx) (b : PointIx) (c : SlotIx) : Statement (.pdsm d a b c) := by
  refine ⟨⟨"PDSM", 0x00000027, 0xFF0808FF⟩, by decide, rfl, ?_⟩
  simp only [encode, pack_and]
  simp [opField, dField, aField, bField, cField]
  try decide

theorem keypair (d a : SlotIx) (b : PairIx) : Statement (.keypair d a b) := by
  refine ⟨⟨"KEYPAIR", 0x00000030, 0xFFF100FF⟩, by decide, rfl, ?_⟩
  simp only [encode, pack_and]
  simp [opField, dField, aField, bField, cField]
  try decide

theorem signSeed (d : PairIx) (a : SlotIx) : Statement (.signSeed d a) := by
  refine ⟨⟨"SIGN_SEED", 0x00000031, 0xFFFF01FF⟩, by decide, rfl, ?_⟩
  simp only [encode, pack_and]
  simp [opField, dField, aField, bField, cField]
  try decide

theorem signExp (d a : PairIx) : Statement (.signExp d a) := by
  refine ⟨⟨"SIGN_EXP", 0x00000032, 0xFFFF11FF⟩, by decide, rfl, ?_⟩
  simp only [encode, pack_and]
  simp [opField, dField, aField, bField, cField]
  try decide

theorem signKp (d : PairIx) (a b : SlotIx) : Statement (.signKp d a b) := by
  refine ⟨⟨"SIGN_KP", 0x00000033, 0xFFF001FF⟩, by decide, rfl, ?_⟩
  simp only [encode, pack_and]
  simp [opField, dField, aField, bField, cField]
  try decide

theorem verify (a : PairIx) (b : SlotIx) : Statement (.verify a b) := by
  refine ⟨⟨"VERIFY", 0x00000034, 0xFFF01FFF⟩, by decide, rfl, ?_⟩
  simp only [encode, pack_and]
  simp [opField, dField, aField, bField, cField]
  try decide

theorem openMsg (b : SlotIx) : Statement (.openMsg b) := by
  refine ⟨⟨"OPEN", 0x00000035, 0xFFF0FFFF⟩, by decide, rfl, ?_⟩
  simp only [encode, pack_and]
  simp [opField, dField, aField, bField, cField]
  try decide

end Sys2Proof.Laws.TableMatch
end

