-- ==== Sys2Proof/Tests/Slice0.lean ====
section
/-!
SUPPORT. The model's own tests: words written out from the spec's encodings, ill-formed terms, the vectors of
95_test_vectors.md one step at a time, and for every obligation with hypotheses a state and operands that meet them.
A slot value is written as the number LE of its bytes (R8): the spec's `ec ff*30 7f` is 0x7fff...ffec.
-/

namespace Sys2Proof.Tests

open Sys2Proof Sys2Proof.Machine

set_option Elab.async false

/-! ### Helpers -/

/-- The state a command leaves, or the state it started from where it answers no next state. -/
def after (i : Instr) (s : State) : State :=
  match exec i s with
  | .next t => t
  | .fault _ => s
  | .refused _ => s

/-- The state one step leaves. -/
def stepped (s : State) : State :=
  match step s with
  | .next t => t
  | .fault _ => s
  | .refused _ => s

/-- The reset state with D0, D1, D2, D3 given. -/
def withSlots (a b c d : Slot) : State := (((State.reset.setSlot 0 a).setSlot 1 b).setSlot 2 c).setSlot 3 d

/-- The reset state with P0 and P1 given. -/
def withPoints (q r : Point) : State := (State.reset.setPoint 0 q).setPoint 1 r

/-- The reset state BUSY with a command word. -/
def busyWith (w : Word) : State := State.reset.accept w

/-- A state whose events are given. -/
def facing (s : State) (es : List Event) : State := s.withEvents es

/-! ### Decoding: one word per command, written out from the patterns of R83 -/

/-- Field commands: FADD D2, D0, D1 (R87); op 0x02, d = 10, a = 11, b = 12; program 1; op 0x04, d = 14, a = 15; program 1; op 0x06, d = 1, a = 0; op 0x07, d = 0, a = 1, b = 2; op 0x08, d = 8, a = 9. -/
theorem test_decode_field :
    (decode 0x00010201 = .ok (.fadd 2 0 1) ∧ encode (.fadd 2 0 1) = 0x00010201) ∧
    (decode 0x000CBA02 = .ok (.fsub 10 11 12) ∧ encode (.fsub 10 11 12) = 0x000CBA02) ∧
    (decode 0x00020303 = .ok (.fmul 3 0 2) ∧ encode (.fmul 3 0 2) = 0x00020303) ∧
    (decode 0x0000FE04 = .ok (.fsq 14 15) ∧ encode (.fsq 14 15) = 0x0000FE04) ∧
    (decode 0x00001205 = .ok (.finv 2 1) ∧ encode (.finv 2 1) = 0x00001205) ∧
    (decode 0x00000106 = .ok (.fneg 1 0) ∧ encode (.fneg 1 0) = 0x00000106) ∧
    (decode 0x00021007 = .ok (.fcswap 0 1 2) ∧ encode (.fcswap 0 1 2) = 0x00021007) ∧
    (decode 0x00009808 = .ok (.fcanon 8 9) ∧ encode (.fcanon 8 9) = 0x00009808) := by decide

/-- Scalar commands: SRED D4, DP0 (R87); op 0x11, d = 3, a = 0, b = 1, c = 2. -/
theorem test_decode_scalar :
    (decode 0x00000410 = .ok (.sred 4 0) ∧ encode (.sred 4 0) = 0x00000410) ∧
    (decode 0x00210311 = .ok (.smuladd 3 0 1 2) ∧ encode (.smuladd 3 0 1 2) = 0x00210311) := by decide

/-- Point commands: program 1; op 0x21, d = 7, a = 15; program 2; program 2; program 2; program 2; program 2; PDSM P0, D5, P1, D6 (R87). -/
theorem test_decode_point :
    (decode 0x00003020 = .ok (.pdec 0 3) ∧ encode (.pdec 0 3) = 0x00003020) ∧
    (decode 0x0000F721 = .ok (.pdecn 7 15) ∧ encode (.pdecn 7 15) = 0x0000F721) ∧
    (decode 0x00007622 = .ok (.penc 6 7) ∧ encode (.penc 6 7) = 0x00007622) ∧
    (decode 0x00042523 = .ok (.padd 5 2 4) ∧ encode (.padd 5 2 4) = 0x00042523) ∧
    (decode 0x00000124 = .ok (.pdbl 1 0) ∧ encode (.pdbl 1 0) = 0x00000124) ∧
    (decode 0x00003425 = .ok (.pneg 4 3) ∧ encode (.pneg 4 3) = 0x00003425) ∧
    (decode 0x00001326 = .ok (.psmb 3 1) ∧ encode (.psmb 3 1) = 0x00001326) ∧
    (decode 0x00615027 = .ok (.pdsm 0 5 1 6) ∧ encode (.pdsm 0 5 1 6) = 0x00615027) := by decide

/-- Signature commands: KEYPAIR D1, D0, DP2, program 3; SIGN_SEED DP4, D0, program 3; SIGN_EXP DP6, DP2, program 3; op 0x33, d = 4, a = 0, b = 1; VERIFY DP4, D1, program 3; OPEN D1, program 4. -/
theorem test_decode_signature :
    (decode 0x00020130 = .ok (.keypair 1 0 1) ∧ encode (.keypair 1 0 1) = 0x00020130) ∧
    (decode 0x00000431 = .ok (.signSeed 2 0) ∧ encode (.signSeed 2 0) = 0x00000431) ∧
    (decode 0x00002632 = .ok (.signExp 3 1) ∧ encode (.signExp 3 1) = 0x00002632) ∧
    (decode 0x00010433 = .ok (.signKp 2 0 1) ∧ encode (.signKp 2 0 1) = 0x00010433) ∧
    (decode 0x00014034 = .ok (.verify 2 1) ∧ encode (.verify 2 1) = 0x00014034) ∧
    (decode 0x00010035 = .ok (.openMsg 1) ∧ encode (.openMsg 1) = 0x00010035) := by decide

/-! ### Illegal words (R84, 95 section 2.5), one for each condition -/

theorem test_illegal_words :
    decode 0x00000000 = .error .reservedOpcode ∧
    decode 0x00000009 = .error .reservedOpcode ∧
    decode 0x00000036 = .error .reservedOpcode ∧
    decode 0x01000001 = .error .reservedBits ∧
    decode 0x00010004 = .error .unusedField ∧
    decode 0x00001010 = .error .oddPair ∧
    decode 0x00008023 = .error .pointIndex ∧
    decode 0x00020230 = .error .keypairOverlap ∧
    decode 0x00020330 = .error .keypairOverlap := by decide

/-- KEYPAIR D4, D0, DP2 is legal (95 section 2.5). -/
theorem test_legal_keypair : decode 0x00020430 = .ok (.keypair 4 0 1) := by decide

/-! ### WellFormed: its one check refuses both overlaps (R84 (6)) -/

theorem test_illformed_keypair_low : Instr.wf (.keypair 2 0 1) = false := by decide

theorem test_illformed_keypair_high : Instr.wf (.keypair 3 0 1) = false := by decide

/-! ### The host's two fixed names -/

theorem test_decodeTableWord : decodeTableWord 32 0x00615027 = some (.pdsm 0 5 1 6) := by decide

/-- The very next step runs the command stored by `withFetchWord`: FADD D2, D0, D1 on zeros completes OK. -/
theorem test_withFetchWord : (stepped (State.reset.withFetchWord 32 0x00010201)).statusWord = 0x00000002 := by decide +kernel

/-! ### Field commands (95 section 2.1) -/

/-- (p - 1) + 2 = 1 (R101). -/
theorem test_fadd_wraps :
    let t := after (.fadd 2 0 1) (withSlots 0x7fffffffffffffffffffffffffffffffffffffffffffffffffffffffffffffec 0x2 0x0 0x0)
    t.slot 2 = 0x1 := by decide +kernel

/-- Bit 255 of a source is ignored (R100). -/
theorem test_fadd_ignores_bit_255 :
    let t := after (.fadd 2 0 1) (withSlots 0x8000000000000000000000000000000000000000000000000000000000000001 0x1 0x0 0x0)
    t.slot 2 = 0x2 := by decide +kernel

/-- 0 - 1 = p - 1 (R102). -/
theorem test_fsub_wraps :
    let t := after (.fsub 2 0 1) (withSlots 0x0 0x1 0x0 0x0)
    t.slot 2 = 0x7fffffffffffffffffffffffffffffffffffffffffffffffffffffffffffffec := by decide +kernel

/-- 5 - 7 = p - 2 (R102). -/
theorem test_fsub_order :
    let t := after (.fsub 2 0 1) (withSlots 0x5 0x7 0x0 0x0)
    t.slot 2 = 0x7fffffffffffffffffffffffffffffffffffffffffffffffffffffffffffffeb := by decide +kernel

/-- 2^254 · 2 = 19 (R103). -/
theorem test_fmul_reduces :
    let t := after (.fmul 2 0 1) (withSlots 0x4000000000000000000000000000000000000000000000000000000000000000 0x2 0x0 0x0)
    t.slot 2 = 0x13 := by decide +kernel

/-- The destination is both sources (R86, R103). -/
theorem test_fmul_square_in_place :
    let t := after (.fmul 0 0 0) (withSlots 0x7fffffffffffffffffffffffffffffffffffffffffffffffffffffffffffffec 0x0 0x0 0x0)
    t.slot 0 = 0x1 := by decide +kernel

/-- (2^128)^2 = 38 (R104). -/
theorem test_fsq :
    let t := after (.fsq 1 0) (withSlots 0x100000000000000000000000000000000 0x0 0x0 0x0)
    t.slot 1 = 0x26 := by decide +kernel

/-- The square of sqrt(-1) is p - 1 (R104). -/
theorem test_fsq_of_sqrt_minus_one :
    let t := after (.fsq 1 0) (withSlots 0x2b8324804fc1df0b2b4d00993dfbd7a72f431806ad2fe478c4ee1b274a0ea0b0 0x0 0x0 0x0)
    t.slot 1 = 0x7fffffffffffffffffffffffffffffffffffffffffffffffffffffffffffffec := by decide +kernel

/-- 1/5 (R105). -/
theorem test_finv :
    let t := after (.finv 1 0) (withSlots 0x5 0x0 0x0 0x0)
    t.slot 1 = 0x1999999999999999999999999999999999999999999999999999999999999996 ∧ t.z0 = false := by decide +kernel

/-- p reads as 0: result 0, Z0 set, ERR = OK (R100, R105). -/
theorem test_finv_of_p :
    let t := after (.finv 1 0) (withSlots 0x7fffffffffffffffffffffffffffffffffffffffffffffffffffffffffffffed 0x7 0x0 0x0)
    t.slot 1 = 0x0 ∧ t.z0 = true ∧ t.statusWord = 0x00000202 := by decide +kernel

/-- -1 = p - 1 (R106). -/
theorem test_fneg :
    let t := after (.fneg 1 0) (withSlots 0x1 0x0 0x0 0x0)
    t.slot 1 = 0x7fffffffffffffffffffffffffffffffffffffffffffffffffffffffffffffec := by decide +kernel

/-- -0 = 0, never p (R106). -/
theorem test_fneg_of_zero :
    let t := after (.fneg 1 0) (withSlots 0x0 0x7 0x0 0x0)
    t.slot 1 = 0x0 := by decide +kernel

/-- Swapped on condition 1 (R107). -/
theorem test_fcswap :
    let t := after (.fcswap 0 1 2) (withSlots 0x5 0x7 0x1 0x0)
    t.slot 0 = 0x7 ∧ t.slot 1 = 0x5 := by decide +kernel

/-- Condition bit 0 clear: rewritten canonically in place (R107). -/
theorem test_fcswap_canonicalises :
    let t := after (.fcswap 0 1 2) (withSlots 0x7fffffffffffffffffffffffffffffffffffffffffffffffffffffffffffffee 0x0 0x2 0x0)
    t.slot 0 = 0x1 ∧ t.slot 1 = 0x0 := by decide +kernel

/-- All ones read as 18 (R108). -/
theorem test_fcanon :
    let t := after (.fcanon 1 0) (withSlots 0xffffffffffffffffffffffffffffffffffffffffffffffffffffffffffffffff 0x0 0x0 0x0)
    t.slot 1 = 0x12 := by decide +kernel

/-- Bit 255 is cleared (R108). -/
theorem test_fcanon_sign :
    let t := after (.fcanon 1 0) (withSlots 0xe666666666666666666666666666666666666666666666666666666666666658 0x0 0x0 0x0)
    t.slot 1 = 0x6666666666666666666666666666666666666666666666666666666666666658 := by decide +kernel

/-! ### Scalar commands (95 section 2.2 and 41_scalar.md) -/

/-- 2^512 - 1 modulo ℓ (R131). -/
theorem test_sred_all_ones :
    let t := after (.sred 2 0) (withSlots 0xffffffffffffffffffffffffffffffffffffffffffffffffffffffffffffffff 0xffffffffffffffffffffffffffffffffffffffffffffffffffffffffffffffff 0x0 0x0)
    t.slot 2 = 0x399411b7c309a3dceec73d217f5be65d00e1ba768859347a40611e3449c0f00 := by decide +kernel

/-- ℓ reduces to 0, over half of the source (R131). -/
theorem test_sred_of_order :
    let t := after (.sred 0 0) (withSlots 0x1000000000000000000000000000000014def9dea2f79cd65812631a5cf5d3ed 0x0 0x0 0x0)
    t.slot 0 = 0x0 := by decide +kernel

/-- 2 · 3 + 4 (R132). -/
theorem test_smuladd :
    let t := after (.smuladd 3 0 1 2) (withSlots 0x2 0x3 0x4 0x0)
    t.slot 3 = 0xa := by decide +kernel

/-- No input is reduced first (R132). -/
theorem test_smuladd_all_ones :
    let t := after (.smuladd 3 0 1 2) (withSlots 0xffffffffffffffffffffffffffffffffffffffffffffffffffffffffffffffff 0xffffffffffffffffffffffffffffffffffffffffffffffffffffffffffffffff 0xffffffffffffffffffffffffffffffffffffffffffffffffffffffffffffffff 0x0)
    t.slot 3 = 0x399411b7c309a3dceec73d217f5be671dfdb99197ff60ad252c438913f94dd1 := by decide +kernel

/-! ### Point commands (42_point.md) -/

/-- The encoding of B decodes to B (R141). -/
theorem test_pdec_base :
    let t := after (.pdec 0 0) (withSlots 0x6666666666666666666666666666666666666666666666666666666666666658 0x0 0x0 0x0)
    t.point 0 = some basePoint ∧ t.statusWord = 0x00000002 := by decide +kernel

/-- y = 1 with sign 1 is NEG_ZERO, y = 2 is NOT_ON_CURVE (R141). -/
theorem test_pdec_failures :
    let t := after (.pdec 0 0) (withSlots 0x8000000000000000000000000000000000000000000000000000000000000001 0x0 0x0 0x0)
    t.point 0 = none ∧ t.statusWord = 0x00000062 ∧
      (after (.pdec 0 0) (withSlots 0x2 0x0 0x0 0x0)).statusWord = 0x00000052 := by decide +kernel

/-- B decoded and negated (R143). -/
theorem test_pdecn_base :
    let t := after (.pdecn 1 0) (withSlots 0x6666666666666666666666666666666666666666666666666666666666666658 0x0 0x0 0x0)
    t.point 1 = some ⟨57896044618658097711785492504343953926634992332820282019728792003956564819949 - 15112221349535400772501151409588531511454012693041857206046113283949847762202, 46316835694926478169428394003475163141307993866256225615783033603165251855960⟩ := by decide +kernel

/-- PE(O) and PE(B) (R142). -/
theorem test_penc_identity :
    let t := after (.penc 1 0) (withPoints Point.zero basePoint)
    t.slot 1 = 0x1 ∧ (after (.penc 2 1) (withPoints Point.zero basePoint)).slot 2 = 0x6666666666666666666666666666666666666666666666666666666666666658 := by decide +kernel

/-- P5 is not valid (R140). -/
theorem test_penc_uninit :
    let t := after (.penc 1 5) (withPoints Point.zero basePoint)
    t.statusWord = 0x00000022 := by decide +kernel

/-- B + B (R144). -/
theorem test_padd :
    let t := after (.padd 2 0 1) (withPoints basePoint basePoint)
    (t.point 2).map pointEncode = some 0x2260cdf3092329c21da25ee8c9a21f5697390f51643851560e5f46ae6af8a3c9 := by decide +kernel

/-- B + (-B) = O, over a source (R144). -/
theorem test_padd_inverse :
    let t := after (.padd 0 0 1) (withPoints basePoint ⟨57896044618658097711785492504343953926634992332820282019728792003956564819949 - 15112221349535400772501151409588531511454012693041857206046113283949847762202, 46316835694926478169428394003475163141307993866256225615783033603165251855960⟩)
    t.point 0 = some Point.zero := by decide +kernel

/-- [2]B (R145). -/
theorem test_pdbl :
    let t := after (.pdbl 1 0) (withPoints basePoint Point.zero)
    (t.point 1).map pointEncode = some 0x2260cdf3092329c21da25ee8c9a21f5697390f51643851560e5f46ae6af8a3c9 := by decide +kernel

/-- -B (R147). -/
theorem test_pneg :
    let t := after (.pneg 1 0) (withPoints basePoint Point.zero)
    (t.point 1).map pointEncode = some 0xe666666666666666666666666666666666666666666666666666666666666658 := by decide +kernel

/-- [3]B (R146). -/
theorem test_psmb :
    let t := after (.psmb 0 0) (withSlots 0x3 0x0 0x0 0x0)
    (t.point 0).map pointEncode = some 0x1267b1d177ee69aba126a18e60269ef79f16ec176724030402c3684878f5b4d4 := by decide +kernel

/-- 2^255 is out of range (R149). -/
theorem test_psmb_range :
    let t := after (.psmb 0 0) (withSlots 0x8000000000000000000000000000000000000000000000000000000000000000 0x0 0x0 0x0)
    t.point 0 = none ∧ t.statusWord = 0x00000042 := by decide +kernel

/-- [2]B + [3]B (R148). -/
theorem test_pdsm :
    let t := after (.pdsm 0 0 1 2) ((withPoints Point.zero basePoint).setSlot 0 2 |>.setSlot 2 3)
    (t.point 0).map pointEncode = some 0xdf4825b298feae6fe02c6e148992466631282eca89430b5d10d21f83d676c8ed := by decide +kernel

/-- UNINIT before RANGE (R209). -/
theorem test_pdsm_uninit_first :
    let t := after (.pdsm 0 0 6 1) (withSlots 0x8000000000000000000000000000000000000000000000000000000000000000 0x0 0x0 0x0)
    t.statusWord = 0x00000022 := by decide +kernel

/-! ### Signature commands without their hash (43_signature.md) -/

/-- The clamped first half of the RFC 8032 test 1 digest (95 section 1, L1.6). -/
theorem test_clamp : clamp 0xfe94d9006f020a5a3c080d96827fffd3c010ac0f12e7a42cb33284f86837c35 =
    0x4fe94d9006f020a5a3c080d96827fffd3c010ac0f12e7a42cb33284f86837c30 := by decide +kernel

/-- S = (k·a + r) mod ℓ with the intermediate values of RFC 8032 test 1 (95 section 1, L1.6). -/
theorem test_sign_scalar : mulAddMod 0x454522e167e3e8a132cec316125d8f86cdf00c6e70405293d19964c8ebcea86
    0x4fe94d9006f020a5a3c080d96827fffd3c010ac0f12e7a42cb33284f86837c30
    0x474a058ac758fc5edc2af18741049226853afb47d7844f2ea3d898c300789f3 =
    0xb107a8e4341516524be5b59f0f55bd26bb4f91c70391ec6ac3ba3901582b85f := by decide +kernel

/-- KEYPAIR over its own pair is ILLEGAL and writes nothing (R84). -/
theorem test_keypair_overlap :
    let t := after (.keypair 2 0 1) (withSlots 0x1 0x2 0x0 0x0)
    t.statusWord = 0x00000012 ∧ t.slot 2 = 0 := by decide +kernel

/-- MSG_LEN = 4097 > MSG_SIZE is LENGTH (R204). -/
theorem test_signSeed_length :
    let t := after (.signSeed 2 0) { State.reset with msgLen := 4097 }
    t.statusWord = 0x00000032 ∧ t.slot 4 = 0 := by decide +kernel

/-- MSG_LEN = 4097 > MSG_SIZE is LENGTH (R204). -/
theorem test_signExp_length :
    let t := after (.signExp 2 1) { State.reset with msgLen := 4097 }
    t.statusWord = 0x00000032 ∧ t.slot 4 = 0 := by decide +kernel

/-- MSG_LEN = 4097 > MSG_SIZE is LENGTH (R204). -/
theorem test_signKp_length :
    let t := after (.signKp 2 0 1) { State.reset with msgLen := 4097 }
    t.statusWord = 0x00000032 ∧ t.slot 4 = 0 := by decide +kernel

/-- S with bit 253 set does not verify, and that is no error (R180, R181). -/
theorem test_verify_high_s :
    let t := after (.verify 0 2) (withSlots 0x0 0x2000000000000000000000000000000000000000000000000000000000000000 0x6666666666666666666666666666666666666666666666666666666666666658 0x0)
    t.statusWord = 0x00000002 := by decide +kernel

/-- A public key that does not decode does not verify (R173, R206). -/
theorem test_verify_bad_key :
    let t := after (.verify 0 2) (withSlots 0x0 0x0 0x2 0x0)
    t.statusWord = 0x00000002 := by decide +kernel

/-- OPEN of a message whose S has bit 253 set: VALID = 0 and MSG[0..65) zeroed, MSG[65] kept (R186). -/
theorem test_open_zeroes :
    let s := { State.reset with
      msgLen := 65, msg := Memory.memWrite ⟨0, []⟩ 0 (List.replicate 63 7 ++ [0x20, 0x72, 0x55]), outLen := 9 }
    let t := after (.openMsg 1) s
    t.statusWord = 0x00000002 ∧ t.outLen = 0 ∧ t.msg.byte 0 = 0 ∧ t.msg.byte 64 = 0 ∧ t.msg.byte 65 = 0x55 := by
  decide +kernel

/-- MSG_LEN = 63 is LENGTH, and nothing is zeroed (R186, program 4). -/
theorem test_open_length :
    let t := after (.openMsg 1) { State.reset with msgLen := 63, msg := ⟨0, [(0, 7)]⟩ }
    t.statusWord = 0x00000032 ∧ t.msg.byte 0 = 7 := by decide +kernel

/-! ### The bus and the registers (95 section 2.5, program 5) -/

/-- The response a read gets in a state. -/
def readOf (s : State) (addr : Addr) : BusResponse := s.busRead ⟨addr, 0xF, .read⟩

theorem test_read_id : readOf State.reset 0x014 = .okay (some 0xED250001) := by decide +kernel

theorem test_read_param : readOf State.reset 0x018 = .okay (some 0x00001000) := by decide +kernel

/-- The last slot word and the first unmapped address after the slots, the last MSG word, and the first address after it. -/
theorem test_map_edges : targetOf Params.default 0x3FC = .slotWord 15 7 ∧ targetOf Params.default 0x400 = .unmapped ∧
    targetOf Params.default 0x1FFF = .msgWord 4092 ∧ targetOf Params.default 0x2000 = .unmapped ∧
    targetOf ⟨64, false⟩ 0x1040 = .unmapped := by decide +kernel

theorem test_read_unmapped : readOf State.reset 0x01C = .error (some 0) := by decide +kernel

theorem test_read_misaligned : readOf State.reset 0x202 = .error none := by decide +kernel

/-- A slot written byte for byte has its first byte lowest (R53, R54): word 0 of D1 is bytes 0 to 3. -/
theorem test_slot_byte_order :
    let t := stepped (facing State.reset [wr 0x224 0x04030201])
    t.slot 1 = 0x0403020100000000 ∧ readOf t 0x224 = .okay (some 0x04030201) := by decide +kernel

theorem test_msg_byte_order :
    let t := stepped (facing State.reset [wr 0x1004 0x04030201])
    t.msg.byte 4 = 1 ∧ t.msg.byte 7 = 4 ∧ readOf t 0x1004 = .okay (some 0x04030201) := by decide +kernel

theorem test_slot_read_while_busy : readOf (busyWith 1) 0x200 = .error none := by decide +kernel

/-- CLR with IE kept after an ILLEGAL command leaves STATUS 0x00000010 and drops IRQ (program 5). -/
theorem test_clr_after_illegal :
    let s := { State.reset.complete .illegal with ie := true }
    let t := s.writeCtrl 0x00000006
    s.statusWord = 0x00000012 ∧ s.irq = true ∧ t.statusWord = 0x00000010 ∧ t.irq = false ∧ t.ctrlWord = 4 := by
  decide +kernel

/-- A CMD write while BUSY is ignored with OVF (R29). -/
theorem test_cmd_while_busy :
    let t := stepped (facing (busyWith 1) [wr 0x000 2])
    t.cmd = 1 ∧ t.engine = .busy 1 ∧ t.statusWord = 0x00000401 ∧ t.response = some (.okay none) := by decide +kernel

/-- A soft reset abandons the command in flight and clears the slots, not MSG (R231). -/
theorem test_soft_reset :
    let s := (busyWith 1).setSlot 0 5
    let t := stepped (facing { s with msg := ⟨0, [(3, 9)]⟩ } [wr 0x008 7])
    t.engine = .idle ∧ t.slot 0 = 0 ∧ t.ie = false ∧ t.msg.byte 3 = 9 := by decide +kernel

/-- `ISSUE FADD D2, D0, D1` in three steps: accepted, completed, and STATUS read as 0x00000002 (R89). -/
theorem test_issue :
    let t := stepped (stepped (stepped (facing (withSlots 1 2 0 0) (issue (.fadd 2 0 1)))))
    t.slot 2 = 3 ∧ t.response = some (.okay (some 0x00000002)) ∧ t.events = [] := by decide +kernel

/-! ### Assembly (R87) and pseudo-instructions (R88) -/

theorem test_assemble_fadd : (assemble "FADD D2, D0, D1").map encode = some 0x00010201 := by decide +kernel

theorem test_assemble_pdsm : (assemble "pdsm P0, D5, P1, D6 ; [h]P1 + [s]B").map encode = some 0x00615027 := by
  decide +kernel

theorem test_assemble_sred : (assemble "SRED D4, DP0").map encode = some 0x00000410 := by decide +kernel

theorem test_assemble_odd_pair : assemble "SRED D4, DP1" = none := by decide +kernel

theorem test_expand_psub : (Pseudo.psub 2 0 1).expand = [.pneg 2 1, .padd 2 0 2] := by decide
/-! ### Witnesses: states and operands that meet the hypotheses of each obligation, clause by clause -/

theorem witness_DecodeOfEncodeIsTheCommand : Instr.wf (.keypair 4 0 1) = true ∧ Instr.wf (.pdsm 7 15 0 15) = true := by
  decide

theorem witness_EncodeOfDecodedWordIsTheWord : decode 0x00020430 = .ok (.keypair 4 0 1) := by decide

/-- A word that belongs to its row, and one that does but is the KEYPAIR overlap. -/
theorem witness_WordIsLegalExactlyWhenARowMatches :
    (0x00020430 : Word) &&& 0xFFF100FF = 0x00000030 ∧ (0x00020330 : Word) &&& 0xFFF100FF = 0x00000030 ∧
      (dField 0x00020330).toNat = (bField 0x00020330).toNat + 1 := by decide

/-- Both ways it can be the engine's turn. -/
theorem witness_StepRunsTheDecodedCommand :
    (busyWith 0x00010201).EngineTurn (busyWith 0x00010201) ∧
    (facing (busyWith 0x00010201) [.engine, rd 0x004]).EngineTurn (facing (busyWith 0x00010201) [rd 0x004]) ∧
    (busyWith 0x00010201).engine = .busy 0x00010201 ∧ decode 0x00010201 = .ok (.fadd 2 0 1) :=
  ⟨.inl ⟨rfl, rfl⟩, .inr ⟨[rd 0x004], rfl, rfl⟩, rfl, by decide⟩

/-- An illegal word for each condition of R84. -/
theorem witness_IllegalWordEndsIllegalAndChangesNothing :
    (busyWith 0x00000036).EngineTurn (busyWith 0x00000036) ∧ (busyWith 0x00000036).engine = .busy 0x00000036 ∧
    IllegalWord 0x00000036 ∧ IllegalWord 0x01000001 ∧ IllegalWord 0x00010004 ∧ IllegalWord 0x00001010 ∧
    IllegalWord 0x00008023 ∧ IllegalWord 0x00020230 ∧ IllegalWord 0x00020330 := by
  refine ⟨.inl ⟨rfl, rfl⟩, rfl, .inl (by decide), .inr (.inl (by decide)), .inr (.inr (.inl ?_)), .inr (.inr (.inl ?_)),
    .inr (.inr (.inl ?_)), .inr (.inr (.inr ⟨by decide, .inl (by decide)⟩)), .inr (.inr (.inr ⟨by decide, .inr (by decide)⟩))⟩
  · exact ⟨(0x04, .S, .S, .Z, .Z), by decide, by decide, fun h => absurd h.2.2.1 (by show ¬ bField _ = 0; decide)⟩
  · exact ⟨(0x10, .S, .SP, .Z, .Z), by decide, by decide, fun h => absurd h.2.1 (by show ¬ (aField _).toNat % 2 = 0; decide)⟩
  · exact ⟨(0x23, .PR, .PR, .PR, .Z), by decide, by decide, fun h => absurd h.2.1 (by show ¬ (aField _).toNat ≤ 7; decide)⟩

/-- A command that fails and answers a next state. -/
theorem witness_FailedCommandWritesNoDestination :
    exec (.penc 1 5) State.reset = .next (State.reset.complete .uninit) ∧ (State.reset.complete .uninit).err ≠ .ok :=
  ⟨exec_penc_of_none (by decide +kernel), by decide⟩

theorem witness_BusAccessesWhileBusyKeepTheOperands :
    (facing (busyWith 1) [wr 0x008 2]).engine = .busy 1 ∧ (wr 0x008 2).resets = false ∧ (wr 0x000 1).resets = false ∧
      (rd 0x200).resets = false ∧ (wr 0x008 1).resets = true := by decide +kernel

theorem witness_BusyEngineCompletesUnlessReset :
    (facing (busyWith 1) [rd 0x004, wr 0x000 1]).engine = .busy 1 ∧
      ∀ e ∈ (facing (busyWith 1) [rd 0x004, wr 0x000 1]).events, e.resets = false := by decide +kernel

theorem witness_PowerOnSetsThePowerOnValues :
    (facing (busyWith 1) [.powerOn, rd 0x004]).events = .powerOn :: [rd 0x004] := by decide +kernel

theorem witness_SoftResetSetsTheSoftValues :
    (facing (busyWith 1) [wr 0x008 7]).events = wr 0x008 7 :: [] ∧ (7 : Word).getLsbD 0 = true := by decide +kernel

theorem witness_CmdWriteWhileIdleAcceptsTheCommand :
    (facing State.reset [wr 0x000 1]).events = wr 0x000 1 :: [] ∧ (facing State.reset [wr 0x000 1]).engine = .idle := by
  decide +kernel

theorem witness_CmdWriteWhileBusyOnlySetsOvf :
    (facing (busyWith 1) [wr 0x000 2]).events = wr 0x000 2 :: [] ∧ (facing (busyWith 1) [wr 0x000 2]).engine = .busy 1 := by
  decide +kernel

/-- The three forms of a CTRL write, at their boundaries: only CLR, only IE, SRST with everything. -/
theorem witness_CtrlWriteClearsAndStoresIe :
    (facing (busyWith 1) [wr 0x008 2]).events = wr 0x008 2 :: [] ∧
    ((2 : Word).getLsbD 0 = false ∧ (2 : Word).getLsbD 1 = true) ∧
    ((4 : Word).getLsbD 0 = false ∧ (4 : Word).getLsbD 1 = false) ∧ (7 : Word).getLsbD 0 = true := by decide +kernel

/-- The edges of both windows, the MSG_LEN write, each register read, the CMD and CTRL writes. -/
theorem witness_BusyLocksOutSlotsMessageAndMsgLen :
    (facing (busyWith 1) [rd 0x200]).busy = true ∧ (facing (busyWith 1) [rd 0x200]).events = .bus ⟨0x200, 0xF, .read⟩ :: [] ∧
    (0x200 ≤ (0x3FF : Addr).toNat ∧ (0x3FF : Addr).toNat < 0x400) ∧
    (0x1000 ≤ (0x1FFF : Addr).toNat ∧ (0x1FFF : Addr).toNat < 0x1000 + (busyWith 1).params.msgSize) ∧
    (∃ v, (BusAccess.mk 0x00C 0xF (.write 5)).op = .write v) ∧
    ((0x018 : Addr), (busyWith 1).paramWord) ∈ [((0x000 : Addr), (busyWith 1).cmd), (0x004, (busyWith 1).statusWord),
      (0x008, (busyWith 1).ctrlWord), (0x00C, (busyWith 1).msgLen), (0x010, (busyWith 1).outLen), (0x014, idWord),
      (0x018, (busyWith 1).paramWord)] := by
  refine ⟨by decide +kernel, by decide +kernel, by decide, by decide +kernel, ⟨5, rfl⟩, by decide +kernel⟩

theorem witness_ReadsHaveNoSideEffect :
    (facing State.reset [rd 0x004]).events = .bus ⟨0x004, 0xF, .read⟩ :: [] := by decide +kernel

/-- Both ends of the three unmapped ranges, a read and a write. -/
theorem witness_UnmappedAccessGetsAnErrorAndDataZero :
    (facing State.reset [rd 0x01C]).events = .bus ⟨0x01C, 0xF, .read⟩ :: [] ∧
    (facing State.reset [wr 0x01C 1]).events = .bus ⟨0x01C, 0xF, .write 1⟩ :: [] ∧
    (0x01C ≤ (0x1FF : Addr).toNat ∧ (0x1FF : Addr).toNat < 0x200) ∧
    (0x400 ≤ (0x400 : Addr).toNat ∧ (0xFFF : Addr).toNat < 0x1000) ∧
    0x1000 + State.reset.params.msgSize ≤ (0x2000 : Addr).toNat ∧
    0x1000 + State.reset.params.msgSize ≤ (0xFFFF : Addr).toNat := by decide +kernel

theorem witness_MisalignedOrPartialAccessHasNoEffect :
    (facing State.reset [.bus ⟨0x202, 0xF, .read⟩]).events = .bus ⟨0x202, 0xF, .read⟩ :: [] ∧
      (0x202 : Addr).toNat % 4 ≠ 0 ∧ (0x7 : BitVec 4) ≠ 0xF := by decide +kernel

/-- The first and the last slot word. -/
theorem witness_SlotWindowHoldsTheSlotsLittleEndian :
    (facing State.reset [rd 0x3FC]).engine = .idle ∧ (0x3FC : Addr).toNat = 0x200 + 32 * (15 : SlotIx).val + 4 * (7 : Fin 8).val ∧
    (0x200 : Addr).toNat = 0x200 + 32 * (0 : SlotIx).val + 4 * (0 : Fin 8).val ∧
    (facing State.reset [rd 0x3FC]).events = rd 0x3FC :: [] ∧ (facing State.reset [wr 0x3FC 1]).events = wr 0x3FC 1 :: [] := by
  decide +kernel

/-- The first and the last message word of the default MSG_SIZE. -/
theorem witness_MessageWindowHoldsMsgLittleEndian :
    (facing State.reset [rd 0x1FFC]).engine = .idle ∧ State.reset.params.Ok ∧ 4 * 1023 < State.reset.params.msgSize ∧
    (0x1FFC : Addr).toNat = 0x1000 + 4 * 1023 ∧ (0x1000 : Addr).toNat = 0x1000 + 4 * 0 ∧
    (facing State.reset [rd 0x1FFC]).events = rd 0x1FFC :: [] ∧
    (facing State.reset [wr 0x1FFC 1]).events = wr 0x1FFC 1 :: [] := by decide +kernel

/-- A read of STATUS, IDLE after reset and BUSY after an acceptance. -/
theorem witness_RegistersReadAsTheyStandInEveryEngineState :
    (facing State.reset [rd 0x004]).events = rd 0x004 :: [] ∧ (facing State.reset [rd 0x004]).engine = .idle ∧
    (facing (State.reset.accept 0x00010201) [rd 0x004]).events = rd 0x004 :: [] ∧
    (facing (State.reset.accept 0x00010201) [rd 0x004]).busy = true ∧
    ∀ s : State, ((0x004 : Addr), s.statusWord) ∈ [((0x000 : Addr), s.cmd), (0x004, s.statusWord), (0x008, if s.ie then 4 else 0),
      (0x00C, s.msgLen), (0x010, s.outLen), (0x014, 0xED250001), (0x018, s.paramWord)] :=
  ⟨rfl, rfl, rfl, rfl, fun _ => by simp⟩

theorem witness_ReadOnlyRegistersIgnoreWrites :
    (facing State.reset [rd 0x014]).events = rd 0x014 :: [] ∧ (facing State.reset [rd 0x018]).events = rd 0x018 :: [] ∧
    State.reset.params.Ok ∧ (0x018 : Addr) ∈ [(0x004 : Addr), 0x010, 0x014, 0x018] ∧
    (facing State.reset [wr 0x018 1]).events = wr 0x018 1 :: [] := by decide +kernel

theorem witness_MsgLenStoresAllBitsWhileIdle :
    (facing State.reset [wr 0x00C 0xFFFFFFFF]).engine = .idle ∧
      (facing State.reset [wr 0x00C 0xFFFFFFFF]).events = wr 0x00C 0xFFFFFFFF :: [] := by decide +kernel

theorem witness_InterruptFollowsIeAndDone :
    (∃ t, exec (.fadd 2 0 1) State.reset = .next t) ∧
    ((2 : Word).getLsbD 0 = true ∨ (2 : Word).getLsbD 1 = true ∨ (2 : Word).getLsbD 2 = false) ∧
    ((4 : Word).getLsbD 0 = false ∧ (4 : Word).getLsbD 1 = false ∧ (4 : Word).getLsbD 2 = true) :=
  ⟨⟨_, rfl⟩, by decide, by decide⟩

theorem reset_inv : State.reset.Inv :=
  ⟨by decide, Memory.wf_empty _ _, (fun _ h => by cases h), (fun h => by cases h), by decide⟩

theorem step_of_busy {s : State} {w : Word} {i : Instr} (he : s.events = []) (hb : s.engine = .busy w)
    (hd : decode w = .ok i) : ∃ t, step s = .next t := by
  obtain ⟨r, h⟩ := exec_is_completion i s
  have hs : step s = exec i s := by simp only [step, he, engineStep, hb, hd]
  exact ⟨_, hs.trans h⟩

/-- A BUSY state meets the invariant too, and its step answers a next state. -/
theorem witness_StepKeepsTheInvariant : (busyWith 1).Inv ∧ ∃ t, step (busyWith 1) = .next t := by
  refine ⟨⟨by decide, Memory.wf_empty _ _, ?_, (fun h => by cases h), by decide⟩, step_of_busy rfl rfl (by decide : decode 1 = .ok (.fadd 0 0 0))⟩
  intro w h
  injection h with h
  subst h
  exact ⟨rfl, rfl, rfl, rfl⟩

/-- A CLR that drops all three flags, and an acceptance that drops DONE. -/
theorem witness_StickyFlagsFallOnlyByClearOrReset :
    let s := { State.reset with done := true, z0 := true, ovf := true }
    (step (facing s [wr 0x008 2]) = .next (stepped (facing s [wr 0x008 2])) ∧ (facing s [wr 0x008 2]).z0 = true ∧
      (stepped (facing s [wr 0x008 2])).z0 = false ∧ (stepped (facing s [wr 0x008 2])).ovf = false ∧
      (stepped (facing s [wr 0x008 2])).done = false) ∧
    (step (facing s [wr 0x000 1]) = .next (stepped (facing s [wr 0x000 1])) ∧ (facing s [wr 0x000 1]).done = true ∧
      (stepped (facing s [wr 0x000 1])).done = false) := by
  refine ⟨⟨rfl, ?_⟩, rfl, ?_⟩ <;> decide +kernel

theorem point_withPoints (q r : Point) : (withPoints q r).point 0 = some q ∧ (withPoints q r).point 1 = some r := by
  constructor
  · rw [withPoints, State.point_setPoint_of_ne _ _ (by decide), State.point_setPoint_self]
  · rw [withPoints, State.point_setPoint_self]

theorem pointsOnCurve_withPoints {q r : Point} (hq : OnCurve q) (hr : OnCurve r) : (withPoints q r).PointsOnCurve := by
  intro j u h
  by_cases h1 : j = 1
  · subst h1; rw [(point_withPoints q r).2] at h; injection h with h; exact h ▸ hr
  · rw [withPoints, State.point_setPoint_of_ne _ _ h1] at h
    by_cases h0 : j = 0
    · subst h0; rw [State.point_setPoint_self] at h; injection h with h; exact h ▸ hq
    · rw [State.point_setPoint_of_ne _ _ h0, State.point_eq] at h
      simp [State.reset, State.resetWith] at h

/-- A state with valid point registers, and a PADD about to run in it. -/
theorem witness_StepKeepsPointRegistersOnTheCurve :
    ((withPoints basePoint Point.zero).accept 0x00010223).PointsOnCurve ∧
      ∃ t, step ((withPoints basePoint Point.zero).accept 0x00010223) = .next t := by
  exact ⟨fun j q h => pointsOnCurve_withPoints onCurve_basePoint onCurve_zero j q h,
    step_of_busy rfl rfl (by decide : decode 0x00010223 = .ok (.padd 2 0 1))⟩

/-- A zero and a non-zero input, 0 also as p. -/
theorem witness_FieldInverseIsTheFermatPower :
    fieldValue 2 ≠ 0 ∧ fieldValue 0 = 0 ∧ fieldValue 0x7fffffffffffffffffffffffffffffffffffffffffffffffffffffffffffffed = 0 := by
  simp only [fieldValue_eq]; decide +kernel

theorem witness_ConditionalSwapRewritesBothSlots :
    (byteAt (1 : Slot) 0).getLsbD 0 = true ∧ (byteAt (2 : Slot) 0).getLsbD 0 = false ∧ (3 : SlotIx) = 3 := by decide +kernel

theorem noRoot_two : ¬ ∃ x, IsRootFor 2 x := by
  rintro ⟨x, h⟩
  obtain ⟨r, hr⟩ := decodeRoot_of_isRootFor h
  have : decodeRoot (fd 2) = none := by decide +kernel
  rw [this] at hr
  cases hr

theorem zeroRoot_one : IsRootFor 1 0 ∧ IsRootFor (1 + 2 ^ 255) 0 := by
  simp only [IsRootFor, fieldValue_eq]; decide +kernel

theorem baseRoot : IsRootFor 0x6666666666666666666666666666666666666666666666666666666666666658 basePoint.x := by
  simp only [IsRootFor, fieldValue_eq]; decide +kernel

/-- No root (y = 2); root 0 with sign 1 (y = 1); the root of B with its sign; root 0 with sign 0. -/
theorem witness_PointDecodeFindsTheRootOfTheSign :
    (¬ ∃ x, IsRootFor ((withSlots 2 0 0 0).slot 0) x) ∧
    (IsRootFor ((withSlots (1 + 2 ^ 255) 0 0 0).slot 0) 0 ∧ ((withSlots (1 + 2 ^ 255) 0 0 0).slot 0).getLsbD 255 = true) ∧
    (IsRootFor 0x6666666666666666666666666666666666666666666666666666666666666658 basePoint.x ∧ basePoint.x % 2 =
      ((0x6666666666666666666666666666666666666666666666666666666666666658 : Slot).getLsbD 255).toNat) ∧
    (IsRootFor 1 0 ∧ 0 % 2 = ((1 : Slot).getLsbD 255).toNat) := by
  have h : ∀ a : Slot, (withSlots a 0 0 0).slot 0 = a := by
    intro a
    simp only [withSlots]
    rw [State.slot_setSlot_of_ne _ _ (by decide), State.slot_setSlot_of_ne _ _ (by decide),
      State.slot_setSlot_of_ne _ _ (by decide), State.slot_setSlot_self]
  refine ⟨by rw [h]; exact noRoot_two, ⟨by rw [h]; exact zeroRoot_one.2, by rw [h]; decide +kernel⟩,
    ⟨baseRoot, by decide +kernel⟩, zeroRoot_one.1, by decide +kernel⟩

theorem witness_PointDecodeOfEncodeIsThePoint : OnCurve basePoint ∧ OnCurve Point.zero := ⟨onCurve_basePoint, onCurve_zero⟩

theorem witness_PointEncodeWritesYAndSign :
    ((withPoints basePoint Point.zero).point 0 = some basePoint ∧ OnCurve basePoint) ∧ State.reset.point 0 = none :=
  ⟨⟨(point_withPoints _ _).1, onCurve_basePoint⟩, by decide +kernel⟩

theorem witness_PointSumSatisfiesTheGroupLaw :
    ((withPoints basePoint Point.zero).point 0 = some basePoint ∧ (withPoints basePoint Point.zero).point 1 = some Point.zero ∧
      OnCurve basePoint ∧ OnCurve Point.zero) ∧
    (State.reset.setPoint 0 basePoint).point 1 = none ∧ State.reset.point 0 = none := by
  refine ⟨⟨(point_withPoints _ _).1, (point_withPoints _ _).2, onCurve_basePoint, onCurve_zero⟩, ?_, by decide +kernel⟩
  rw [State.point_setPoint_of_ne _ _ (by decide)]
  decide +kernel

theorem witness_EdwardsSumIsUnique : OnCurve basePoint ∧ OnCurve basePoint.neg := ⟨onCurve_basePoint, onCurve_basePoint.neg⟩

theorem witness_PointNegateNegatesX :
    ((withPoints basePoint Point.zero).point 0 = some basePoint ∧ OnCurve basePoint) ∧
    ((withPoints basePoint Point.zero).point 1 = some Point.zero ∧ OnCurve Point.zero) ∧ State.reset.point 0 = none :=
  ⟨⟨(point_withPoints _ _).1, onCurve_basePoint⟩, ⟨(point_withPoints _ _).2, onCurve_zero⟩, by decide +kernel⟩

theorem witness_ScalarMultipleIsRepeatedAddition : OnCurve basePoint := onCurve_basePoint

/-- The largest legal scalar and the smallest one out of range. -/
theorem witness_FixedBaseMultiplyWritesTheMultiple :
    leValue (BitVec.ofNat 256 (2 ^ 255 - 1)) < 2 ^ 255 ∧ 2 ^ 255 ≤ leValue (BitVec.ofNat 256 (2 ^ 255)) := by
  simp only [leValue_eq]; decide +kernel

/-- P[b] not valid; valid with h or s at 2^255; valid on E with both at 2^255 - 1. -/
theorem witness_DoubleScalarMultiplyWritesTheSum :
    State.reset.point 0 = none ∧
    ((withPoints basePoint Point.zero).point 0 = some basePoint ∧ OnCurve basePoint) ∧
    (2 ^ 255 ≤ leValue (BitVec.ofNat 256 (2 ^ 255)) ∧ leValue (BitVec.ofNat 256 (2 ^ 255 - 1)) < 2 ^ 255) := by
  refine ⟨by decide +kernel, ⟨(point_withPoints _ _).1, onCurve_basePoint⟩, ?_⟩
  simp only [leValue_eq]; decide +kernel

theorem witness_KeypairWritesDigestAndPublicKey :
    ((4 : SlotIx) ≠ PairIx.low 1 ∧ (4 : SlotIx) ≠ PairIx.high 1) ∧ (2 : SlotIx) = PairIx.low 1 ∧ (3 : SlotIx) = PairIx.high 1 := by
  decide

/-- MSG_LEN at MSG_SIZE and one above it. -/
theorem witness_SigningCommandsWriteTheSignature :
    (4096 : Word).toNat ≤ State.reset.params.msgSize ∧ State.reset.params.msgSize < (4097 : Word).toNat := by decide +kernel

theorem witness_VerifySetsValidToThePredicate :
    (4096 : Word).toNat ≤ State.reset.params.msgSize ∧ State.reset.params.msgSize < (4097 : Word).toNat := by decide +kernel

/-- MSG_LEN at 64 with a signature that MSG holds, and at 63 and 4097. -/
theorem witness_OpenReleasesOrZeroesTheMessage :
    let s := { State.reset with msgLen := 64, msg := Memory.memWrite ⟨0, []⟩ 0 (List.replicate 64 1) }
    (64 ≤ s.msgLen.toNat ∧ s.msgLen.toNat ≤ s.params.msgSize ∧
      ∀ j, j < 64 → byteAt (BitVec.ofNat 512 ((256 ^ 64 - 1) / 255)) j = s.msg.byte j) ∧
    (63 : Word).toNat < 64 ∧ State.reset.params.msgSize < (4097 : Word).toNat := by decide +kernel

theorem witness_SignedMessageVerifies :
    let s := State.reset.setSlot 1 (publicKey (expandSeed 0))
    s.msgLen.toNat ≤ s.params.msgSize ∧ (1 : SlotIx) ≠ PairIx.low 1 ∧ (1 : SlotIx) ≠ PairIx.high 1 ∧
      s.slot 1 = publicKey (expandSeed (s.slot 0)) := by
  refine ⟨by decide +kernel, by decide, by decide, ?_⟩
  rw [State.slot_setSlot_self, State.slot_setSlot_of_ne _ _ (by decide)]
  rw [show State.reset.slot 0 = 0 by decide +kernel]

/-- The expanded key stored as the digest, stored clamped, and the matching public key. -/
theorem witness_KeyFormsSignAlike :
    (let s := State.reset.setPair 1 (expandSeed 0)
     s.pair 1 = expandSeed (s.slot 0)) ∧
    (let s := State.reset.setPair 1 (join (clamp (firstHalf (expandSeed 0))) (secondHalf (expandSeed 0)))
     s.pair 1 = join (clamp (firstHalf (expandSeed (s.slot 0)))) (secondHalf (expandSeed (s.slot 0)))) ∧
    (let s := State.reset.setSlot 1 (publicKey (expandSeed 0))
     s.slot 1 = publicKey (expandSeed (s.slot 0))) := by
  have h0 : ∀ v : Bytes64, (State.reset.setPair 1 v).slot 0 = 0 := by
    intro v
    rw [State.setPair, State.slot_setSlot_of_ne _ _ (by decide), State.slot_setSlot_of_ne _ _ (by decide)]
    decide +kernel
  have h1 : ∀ v : Bytes64, (State.reset.setPair 1 v).pair 1 = v := by
    intro v
    rw [State.pair, State.setPair, State.slot_setSlot_self, State.slot_setSlot_of_ne _ _ (by decide),
      State.slot_setSlot_self, join_halves]
  refine ⟨?_, ?_, ?_⟩
  · simp only [h0, h1]
  · simp only [h0, h1]
  · simp only
    rw [State.slot_setSlot_self, State.slot_setSlot_of_ne _ _ (by decide), show State.reset.slot 0 = 0 by decide +kernel]

/-- S = 2^253; S = ℓ; S = 0, whose S + ℓ is below 2^253. -/
theorem witness_SCheckRejectsAndMalleabilityRemains :
    2 ^ 253 ≤ leValue (BitVec.ofNat 256 (2 ^ 253)) ∧ orderL ≤ leValue (BitVec.ofNat 256 orderL) ∧
      leValue (0 : Slot) + orderL < 2 ^ 253 := by
  simp only [leValue_eq]; decide +kernel

/-- Memories that agree below MSG_LEN = 1 and differ at it. -/
theorem witness_NoCommandReadsBeyondMsgLen :
    let s := { State.reset with msgLen := 1, msg := ⟨0, [(0, 7), (1, 8)]⟩ }
    (∀ n, n < s.msgLen.toNat → Memory.byte ⟨0, [(0, 7), (1, 9)]⟩ n = s.msg.byte n) ∧
      Memory.byte ⟨0, [(0, 7), (1, 9)]⟩ 1 ≠ s.msg.byte 1 := by decide +kernel

theorem witness_PseudoInstructionsDoWhatTheyName :
    ((withPoints basePoint Point.zero).point 0 = some basePoint ∧ OnCurve basePoint) ∧
    ((Pseudo.psub 1 0 1).operandsOk = true ∧ (withPoints basePoint Point.zero).point 1 = some Point.zero ∧ OnCurve Point.zero) ∧
    leValue (1 : Slot) = 1 ∧ leValue (0 : Slot) = 0 := by
  refine ⟨⟨(point_withPoints _ _).1, onCurve_basePoint⟩, ⟨by decide, (point_withPoints _ _).2, onCurve_zero⟩, ?_⟩
  simp only [leValue_eq]; decide +kernel

end Sys2Proof.Tests
end

/-! ### Proofs: the clamped scalar (R5) -/

section
namespace Sys2Proof.Proofs
open Sys2Proof.Machine

theorem clamp_lowBits {k : Nat} (b : Slot) (hk : k < 3) : (clamp b).getLsbD k = false := by
  rw [getLsbD_clamp b k (by omega), if_pos hk]

theorem clamp_bit254 (b : Slot) : (clamp b).getLsbD 254 = true :=
  (getLsbD_clamp b 254 (by decide)).trans (by simp)

theorem clamp_highBits {k : Nat} (b : Slot) (hk : 255 ≤ k) : (clamp b).getLsbD k = false := by
  obtain rfl | hk : k = 255 ∨ 256 ≤ k := by omega
  · exact (getLsbD_clamp b 255 (by decide)).trans (by simp)
  · exact BitVec.getLsbD_of_ge _ _ hk

/-- Bit 254 of the clamped string is set. -/
theorem two_pow_254_le_leValue_clamp (b : Slot) : 2 ^ 254 ≤ leValue (clamp b) := by
  rw [leValue_eq]
  exact Nat.ge_two_pow_of_testBit (clamp_bit254 b)

/-- No bit of the clamped string from 255 on is set. -/
theorem leValue_clamp_lt (b : Slot) : leValue (clamp b) < 2 ^ 255 := by
  rw [leValue_eq]
  exact Nat.lt_pow_two_of_testBit _ fun _ hk => clamp_highBits b hk

/-- The remainder modulo 8 = 2^3 holds the three low bits, all cleared. -/
theorem leValue_clamp_mod_eight (b : Slot) : leValue (clamp b) % 8 = 0 := by
  rw [leValue_eq, show (8 : Nat) = 2 ^ 3 by norm_num]
  refine Nat.eq_of_testBit_eq fun k => ?_
  rw [Nat.testBit_mod_two_pow, Nat.zero_testBit, Bool.and_eq_false_imp]
  exact fun hk => clamp_lowBits b (of_decide_eq_true hk)

/-- Settles O47, from the value of each bit of the clamped string. -/
theorem clampSetsAndClearsTheNamedBits : Obligations.ClampSetsAndClearsTheNamedBits := by
  intro b
  refine ⟨fun k hk => ?_, two_pow_254_le_leValue_clamp b, leValue_clamp_lt b, leValue_clamp_mod_eight b⟩
  rw [getLsbD_clamp b k hk, ← ite_or]
  exact if_congr (by omega) rfl rfl

end Sys2Proof.Proofs
end

/-! ### Proofs: register accesses on the bus (R28 to R36) -/

section
namespace Sys2Proof.Proofs
open Sys2Proof.Machine

/-! #### Steps that access a register -/

@[simp] theorem withEvents_readReg (s : State) (es : List Event) (r : Reg) : (s.withEvents es).readReg r = s.readReg r := by
  cases r <;> rfl

/-- A full-word read of the register at an address changes nothing but the response (R51, R59). -/
theorem step_rd_reg {s : State} {addr : Addr} {es : List Event} (r : Reg) (he : s.events = rd addr :: es)
    (h4 : addr.toNat % 4 = 0) (hr : regAt (addr.toNat / 4) = some r) :
    step s = .next { s with events := es, response := some (.okay (some (s.readReg r))) } := by
  simp only [step, he, rd]
  rw [busAccess_read_reg h4 hr, withEvents_readReg]
  rfl

/-- A full-word write that the register takes has the register's effect and gets an OKAY (R51). -/
theorem step_wr_reg {s t : State} {addr : Addr} {v : Word} {es : List Event} (r : Reg) (he : s.events = wr addr v :: es)
    (h4 : addr.toNat % 4 = 0) (hr : regAt (addr.toNat / 4) = some r) (hw : (s.withEvents es).writeReg r v = some t) :
    step s = .next (t.respond (.okay none)) := by
  simp only [step, he, wr]
  rw [busAccess_write_reg h4 hr hw]

/-! #### CMD (R29, R36) -/

theorem writeCmd_of_idle {s : State} (v : Word) (h : s.engine = .idle) : s.writeCmd v = s.accept v :=
  if_neg (by simp [(State.busy_eq_false_iff s).2 h])

/-- Settles O15: the step is the acceptance of the word, whose fields the laws of `accept` give. -/
theorem cmdWriteWhileIdleAcceptsTheCommand : Obligations.CmdWriteWhileIdleAcceptsTheCommand := by
  intro s v es he hidle
  have hw : (s.withEvents es).writeReg .cmd v = some ((s.withEvents es).accept v) :=
    congrArg some (writeCmd_of_idle v hidle)
  refine ⟨_, step_wr_reg .cmd he rfl rfl hw, ?_⟩
  simp

/-! #### CTRL (R33) and the soft reset (R231) -/

theorem ctrlWord_eq_ite (s : State) : s.ctrlWord = if s.ie then 4 else 0 := by
  cases h : s.ie <;> simp [State.ctrlWord, h]

theorem busRead_ctrl (s : State) : s.busRead ⟨0x008, 0xF, .read⟩ = .okay (some (if s.ie then 4 else 0)) := by
  rw [← ctrlWord_eq_ite]
  rfl

theorem writeCtrl_of_srst (s : State) {v : Word} (h : v.getLsbD 0 = true) : s.writeCtrl v = s.softReset := if_pos h

theorem writeCtrl_of_clr (s : State) {v : Word} (h0 : v.getLsbD 0 = false) (h1 : v.getLsbD 1 = true) :
    s.writeCtrl v = { s.clearFlags with ie := v.getLsbD 2 } := by
  rw [State.writeCtrl, if_neg (ne_true_of_eq_false h0), if_pos h1]

theorem writeCtrl_of_neither (s : State) {v : Word} (h0 : v.getLsbD 0 = false) (h1 : v.getLsbD 1 = false) :
    s.writeCtrl v = { s with ie := v.getLsbD 2 } := by
  rw [State.writeCtrl, if_neg (ne_true_of_eq_false h0), if_neg (ne_true_of_eq_false h1)]

theorem softReset_statusWord (s : State) : s.softReset.statusWord = 0 := by
  simp [State.statusWord, ErrCode.code]

theorem softReset_hasResetValues (s : State) : s.softReset.HasResetValues s.params :=
  ⟨rfl, rfl, softReset_statusWord s, ctrlWord_eq_ite _, rfl, rfl, State.softReset_slot s, State.softReset_point s, rfl, rfl⟩

/-- Settles O17: the step is `writeCtrl` with an OKAY, and each form of the word takes one branch of it. -/
theorem ctrlWriteClearsAndStoresIe : Obligations.CtrlWriteClearsAndStoresIe := by
  intro s v es he
  refine ⟨_, step_wr_reg .ctrl he rfl rfl rfl, rfl, fun h0 h1 => ?clr, fun h0 h1 => ?neither, fun h0 => ?srst,
    busRead_ctrl _⟩
  case clr =>
    rw [writeCtrl_of_clr _ h0 h1]
    rfl
  case neither =>
    rw [writeCtrl_of_neither _ h0 h1]
    rfl
  case srst =>
    rw [writeCtrl_of_srst _ h0]
    exact ⟨softReset_hasResetValues (s.withEvents es), fun _ => rfl⟩

/-! #### The read-only registers (R28, R31, R32) -/

/-- MSG_SIZE is at most 4096 (R6), so it fills PARAM[15:0] without loss and STRICT_S stands above it. -/
theorem toNat_paramWord {s : State} (hp : s.params.Ok) :
    s.paramWord.toNat = s.params.msgSize + (if s.params.strictS then 2 ^ 16 else 0) := by
  obtain ⟨-, -, hle⟩ := hp
  have hlt : s.params.msgSize < 2 ^ 16 := by omega
  calc s.paramWord.toNat
    _ = ((0 : BitVec 15) ++ BitVec.ofBool s.params.strictS).toNat <<< 16 ||| (BitVec.ofNat 16 s.params.msgSize).toNat :=
      BitVec.toNat_append _ _
    _ = s.params.strictS.toNat <<< 16 ||| s.params.msgSize := by
      rw [BitVec.toNat_append, BitVec.toNat_ofBool, BitVec.toNat_ofNat, Nat.mod_eq_of_lt hlt]
      simp
    _ = s.params.strictS.toNat <<< 16 + s.params.msgSize := (Nat.shiftLeft_add_eq_or_of_lt hlt _).symm
    _ = s.params.msgSize + (if s.params.strictS then 2 ^ 16 else 0) := by
      cases s.params.strictS <;> simp [Nat.add_comm]

/-- Settles O25: the two reads give the registers' words, and each read-only register takes a write without effect. -/
theorem readOnlyRegistersIgnoreWrites : Obligations.ReadOnlyRegistersIgnoreWrites := by
  refine ⟨fun s es he => step_rd_reg .id he rfl rfl,
    fun s es hp he => ⟨s.paramWord, step_rd_reg .param he rfl rfl, toNat_paramWord hp⟩, fun s addr v es ha he => ?_⟩
  simp only [List.mem_cons, List.not_mem_nil, or_false] at ha
  obtain rfl | rfl | rfl | rfl := ha
  · exact step_wr_reg .status he rfl rfl rfl
  · exact step_wr_reg .outLen he rfl rfl rfl
  · exact step_wr_reg .id he rfl rfl rfl
  · exact step_wr_reg .param he rfl rfl rfl

end Sys2Proof.Proofs
end

/-! ### Proofs: the slot and message windows (R53 to R55, R60) -/

section
namespace Sys2Proof.Proofs
open Sys2Proof.Machine

/-! #### The address map (R52): the windows -/

theorem targetOf_of_slotWindow (p : Params) {addr : Addr} (h : 0x200 ≤ addr.toNat ∧ addr.toNat < 0x400) :
    ∃ i m, targetOf p addr = .slotWord i m :=
  ⟨⟨(addr.toNat - 0x200) / 32, by omega⟩, ⟨(addr.toNat - 0x200) % 32 / 4, by omega⟩,
    targetOf_slot _ _ (addr.toNat % 4) (by omega) (by simp only; omega)⟩

theorem targetOf_of_msgWindow {p : Params} {addr : Addr} (h : 0x1000 ≤ addr.toNat ∧ addr.toNat < 0x1000 + p.msgSize) :
    ∃ n, targetOf p addr = .msgWord n :=
  ⟨_, targetOf_msg ((addr.toNat - 0x1000) / 4) (addr.toNat % 4) (by omega) (by omega) (by omega)⟩

/-- Each register stands at an aligned address of its own and is read as its word (R28). -/
theorem exists_reg_of_mem {s : State} {addr : Addr} {v : Word}
    (h : (addr, v) ∈ [((0x000 : Addr), s.cmd), (0x004, s.statusWord), (0x008, s.ctrlWord), (0x00C, s.msgLen),
      (0x010, s.outLen), (0x014, idWord), (0x018, s.paramWord)]) :
    ∃ r, addr.toNat % 4 = 0 ∧ regAt (addr.toNat / 4) = some r ∧ s.readReg r = v := by
  simp only [List.mem_cons, Prod.mk.injEq, List.not_mem_nil, or_false] at h
  obtain ⟨rfl, rfl⟩ | ⟨rfl, rfl⟩ | ⟨rfl, rfl⟩ | ⟨rfl, rfl⟩ | ⟨rfl, rfl⟩ | ⟨rfl, rfl⟩ | ⟨rfl, rfl⟩ := h
  · exact ⟨.cmd, rfl, rfl, rfl⟩
  · exact ⟨.status, rfl, rfl, rfl⟩
  · exact ⟨.ctrl, rfl, rfl, rfl⟩
  · exact ⟨.msgLen, rfl, rfl, rfl⟩
  · exact ⟨.outLen, rfl, rfl, rfl⟩
  · exact ⟨.id, rfl, rfl, rfl⟩
  · exact ⟨.param, rfl, rfl, rfl⟩

/-! #### Accesses to a window -/

/-- With a bus access next in the order of events, the step is that access and nothing else (R57). -/
theorem step_of_busAccess {s t : State} {a : BusAccess} {es : List Event} (he : s.events = .bus a :: es)
    (h : (s.withEvents es).busAccess a = t) : step s = .next t := by
  simp only [step, he, h]

theorem busAccess_slotWord_of_busy {s : State} {a : BusAccess} {i : SlotIx} {m : Fin 8} (hb : s.busy = true)
    (ht : targetOf s.params a.addr = .slotWord i m) : s.busAccess a = s.respond (.error none) := by
  cases hop : a.op <;> simp [State.busAccess, State.busRead, State.busWrite?, hop, ht, hb]

theorem busAccess_msgWord_of_busy {s : State} {a : BusAccess} {n : Nat} (hb : s.busy = true)
    (ht : targetOf s.params a.addr = .msgWord n) : s.busAccess a = s.respond (.error none) := by
  cases hop : a.op <;> simp [State.busAccess, State.busRead, State.busWrite?, hop, ht, hb]

theorem busAccess_write_msgLen_of_busy {s : State} {a : BusAccess} {v : Word} (hb : s.busy = true)
    (ht : targetOf s.params a.addr = .reg .msgLen) (hop : a.op = .write v) : s.busAccess a = s.respond (.error none) := by
  simp [State.busAccess, State.busWrite?, hop, ht, State.writeReg, hb]

section Idle
variable {s : State} {addr : Addr} (hidle : s.engine = .idle) (h4 : addr.toNat % 4 = 0)
include hidle h4

theorem busAccess_read_slotWord {i : SlotIx} {m : Fin 8} (ht : targetOf s.params addr = .slotWord i m) :
    s.busAccess ⟨addr, 0xF, .read⟩ = s.respond (.okay (some (slotWord (s.slot i) m.val))) := by
  have hb := (State.busy_eq_false_iff s).2 hidle
  simp [State.busAccess, State.busRead, ht, BusAccess.supported, h4, hb]

theorem busAccess_write_slotWord {i : SlotIx} {m : Fin 8} (v : Word) (ht : targetOf s.params addr = .slotWord i m) :
    s.busAccess ⟨addr, 0xF, .write v⟩ = (s.setSlot i (setSlotWord (s.slot i) m.val v)).respond (.okay none) := by
  have hb := (State.busy_eq_false_iff s).2 hidle
  simp [State.busAccess, State.busWrite?, ht, BusAccess.supported, h4, hb]

theorem busAccess_read_msgWord {n : Nat} (ht : targetOf s.params addr = .msgWord n) :
    s.busAccess ⟨addr, 0xF, .read⟩ = s.respond (.okay (some (s.msg.readWord n))) := by
  have hb := (State.busy_eq_false_iff s).2 hidle
  simp [State.busAccess, State.busRead, ht, BusAccess.supported, h4, hb]

theorem busAccess_write_msgWord {n : Nat} (v : Word) (ht : targetOf s.params addr = .msgWord n) :
    s.busAccess ⟨addr, 0xF, .write v⟩ = State.respond { s with msg := s.msg.writeWord n v } (.okay none) := by
  have hb := (State.busy_eq_false_iff s).2 hidle
  simp [State.busAccess, State.busWrite?, ht, BusAccess.supported, h4, hb]

end Idle

/-! #### The lock-out while BUSY (R60) -/

/-- A locked-out access: any in a window, or a write to MSG_LEN. -/
theorem busAccess_of_lockedOut {s : State} {a : BusAccess} (hb : s.busy = true)
    (h : (0x200 ≤ a.addr.toNat ∧ a.addr.toNat < 0x400) ∨
      (0x1000 ≤ a.addr.toNat ∧ a.addr.toNat < 0x1000 + s.params.msgSize) ∨ (a.addr = 0x00C ∧ ∃ v, a.op = .write v)) :
    s.busAccess a = s.respond (.error none) := by
  obtain hslot | hmsg | ⟨haddr, v, hop⟩ := h
  · obtain ⟨i, m, ht⟩ := targetOf_of_slotWindow s.params hslot
    exact busAccess_slotWord_of_busy hb ht
  · obtain ⟨n, ht⟩ := targetOf_of_msgWindow hmsg
    exact busAccess_msgWord_of_busy hb ht
  · exact busAccess_write_msgLen_of_busy hb (targetOf_reg (by rw [haddr]; rfl)) hop

theorem writeCmd_of_busy {s : State} (v : Word) (h : s.busy = true) : s.writeCmd v = s.setOvf := if_pos h

/-- Settles O18: a locked-out access only records an ERROR, and the registers answer as in any engine state. -/
theorem busyLocksOutSlotsMessageAndMsgLen : Obligations.BusyLocksOutSlotsMessageAndMsgLen := by
  intro s a es hb he
  refine ⟨fun h => ?locked, fun hstrobes hop v hv => ?read, fun v ha => ?cmd, fun v ha => ?ctrl⟩
  case locked => exact ⟨none, step_of_busAccess he (busAccess_of_lockedOut (s := s.withEvents es) hb h)⟩
  case read =>
    obtain ⟨addr, strobes, op⟩ := a
    subst hstrobes hop
    obtain ⟨r, h4, hr, rfl⟩ := exists_reg_of_mem hv
    exact step_rd_reg r he h4 hr
  case cmd =>
    subst ha
    exact step_wr_reg .cmd he rfl rfl (congrArg some (writeCmd_of_busy v hb))
  case ctrl =>
    subst ha
    exact step_wr_reg .ctrl he rfl rfl rfl

/-! #### The slot window (R53, R54) -/

theorem byteAt_slotWord (w : Slot) (m : Nat) {k : Nat} (hk : k < 4) : byteAt (slotWord w m) k = byteAt w (4 * m + k) := by
  refine BitVec.eq_of_getLsbD_eq fun i hi => ?_
  rw [getLsbD_byteAt, getLsbD_byteAt, slotWord, BitVec.getLsbD_extractLsb', decide_eq_true (by omega : 8 * k + i < 32),
    Bool.true_and, show 32 * m + (8 * k + i) = 8 * (4 * m + k) + i by omega]

theorem byteAt_setSlotWord_inside (w : Slot) (m : Fin 8) (v : Word) {k : Nat} (hk : k < 4) :
    byteAt (setSlotWord w m.val v) (4 * m.val + k) = byteAt v k := by
  rw [byteAt_setSlotWord w m v ⟨4 * m.val + k, by omega⟩, if_pos (by simp only; omega)]
  congr 1
  simp only
  omega

theorem byteAt_setSlotWord_outside (w : Slot) (m : Fin 8) (v : Word) {j : Nat} (hj : j < 32) (h : j / 4 ≠ m.val) :
    byteAt (setSlotWord w m.val v) j = byteAt w j :=
  (byteAt_setSlotWord w m v ⟨j, hj⟩).trans (if_neg h)

/-- Settles O22, from what the word access does and from the bytes of a slot word. -/
theorem slotWindowHoldsTheSlotsLittleEndian : Obligations.SlotWindowHoldsTheSlotsLittleEndian := by
  intro s i m addr es hidle haddr
  have h4 : addr.toNat % 4 = 0 := by omega
  have ht : targetOf s.params addr = .slotWord i m := targetOf_slot i m 0 (by decide) haddr
  refine ⟨fun he => ?read, fun v he => ?write⟩
  case read =>
    have hread := busAccess_read_slotWord (s := s.withEvents es) hidle h4 ht
    exact ⟨_, step_of_busAccess he hread, fun k hk => byteAt_slotWord _ _ hk⟩
  case write =>
    have hwrite := busAccess_write_slotWord (s := s.withEvents es) hidle h4 v ht
    refine ⟨_, step_of_busAccess he hwrite, rfl, rfl, ?_⟩
    rw [State.respond_slot, State.slot_setSlot_self]
    exact ⟨fun k hk => byteAt_setSlotWord_inside _ m v hk, fun j hj hne => byteAt_setSlotWord_outside _ m v hj hne,
      fun j hj => State.slot_setSlot_of_ne _ _ hj⟩

/-! #### The message window (R54, R55) -/

theorem byte_writeWord_inside (M : Memory) (n : Nat) (v : Word) {k : Nat} (hk : k < 4) :
    (M.writeWord n v).byte (n + k) = byteAt v k := by
  rw [byte_writeWord, if_pos (by omega), Nat.add_sub_cancel_left]

theorem byte_writeWord_outside (M : Memory) {n k : Nat} (v : Word) (h : k < n ∨ n + 4 ≤ k) :
    (M.writeWord n v).byte k = M.byte k := by
  rw [byte_writeWord, if_neg (by omega)]

/-- Settles O23, from what the word access does and from the bytes of a message word. -/
theorem messageWindowHoldsMsgLittleEndian : Obligations.MessageWindowHoldsMsgLittleEndian := by
  intro s m addr es hidle _ hm haddr
  have h4 : addr.toNat % 4 = 0 := by omega
  have ht : targetOf s.params addr = .msgWord (4 * m) := targetOf_msg m 0 (by decide) hm haddr
  refine ⟨fun he => ?read, fun v he => ?write⟩
  case read =>
    have hread := busAccess_read_msgWord (s := s.withEvents es) hidle h4 ht
    exact ⟨_, step_of_busAccess he hread, fun k hk => byteAt_readWord _ _ k hk⟩
  case write =>
    have hwrite := busAccess_write_msgWord (s := s.withEvents es) hidle h4 v ht
    exact ⟨_, step_of_busAccess he hwrite, rfl, rfl, fun k hk => byte_writeWord_inside _ _ v hk,
      fun n hn => byte_writeWord_outside _ v hn⟩

end Sys2Proof.Proofs
end

/-! ### Proofs: legal and illegal command words (R83, R84) -/

section
namespace Sys2Proof.Proofs
open Sys2Proof.Machine

/-! #### Matching a row of the opcode map is a condition on the fields (R80, R81, R83) -/

/-- A row of the opcode map with the columns op, d, a, b, c of the same command. -/
abbrev MapEntry := OpRow × Nat × OperandKind × OperandKind × OperandKind × OperandKind

/-- The whole of R83: each row beside its operand columns. -/
def opMap : List MapEntry := opRows.zip opKinds

/-- The fields d, a, b, c are of the kinds the entry's columns give (R81). -/
def MapEntry.FieldsAllowed (x : MapEntry) (d a b c : BitVec 4) : Prop :=
  x.2.2.1.Allows d ∧ x.2.2.2.1.Allows a ∧ x.2.2.2.2.1.Allows b ∧ x.2.2.2.2.2.Allows c

/-- The bits of a field that must be 0 for its kind. -/
def fixedBits : OperandKind → BitVec 4
  | .S => 0
  | .SP => 1
  | .PR => 8
  | .Z => 15

theorem and_fixedBits_eq_zero_iff (k : OperandKind) (f : BitVec 4) : f &&& fixedBits k = 0 ↔ k.Allows f := by
  cases k <;> simp only [fixedBits, OperandKind.Allows] <;> revert f <;> decide

theorem mem_opRows_iff {r : OpRow} : r ∈ opRows ↔ ∃ e, (r, e) ∈ opMap := by
  rw [← List.map_fst_zip (l₁ := opRows) (l₂ := opKinds) (by decide), List.mem_map]
  simp [opMap]

theorem mem_opKinds_iff {e : Nat × OperandKind × OperandKind × OperandKind × OperandKind} :
    e ∈ opKinds ↔ ∃ r, (r, e) ∈ opMap := by
  rw [← List.map_snd_zip (l₁ := opRows) (l₂ := opKinds) (by decide), List.mem_map]
  simp [opMap]

/-- The mask of a row covers op, rsv and the bits its operand kinds fix. -/
theorem mask_fields : ∀ x ∈ opMap, rsvField x.1.mask = 255 ∧ opField x.1.mask = 255 ∧ dField x.1.mask = fixedBits x.2.2.1 ∧
    aField x.1.mask = fixedBits x.2.2.2.1 ∧ bField x.1.mask = fixedBits x.2.2.2.2.1 ∧
    cField x.1.mask = fixedBits x.2.2.2.2.2 := by
  decide

/-- The value of a row is its opcode with every other field 0. -/
theorem value_eq_pack : ∀ x ∈ opMap, x.1.value = pack (opField x.1.value) 0 0 0 0 ∧ (opField x.1.value).toNat = x.2.1 := by
  decide

/-- A word is a packed word exactly when its fields are those packed and bits 31:24 are 0 (R80). -/
theorem eq_pack_iff {w : Word} {op : BitVec 8} {d a b c : BitVec 4} :
    w = pack op d a b c ↔
      rsvField w = 0 ∧ opField w = op ∧ dField w = d ∧ aField w = a ∧ bField w = b ∧ cField w = c := by
  constructor
  · rintro rfl
    simp
  · rintro ⟨h, rfl, rfl, rfl, rfl, rfl⟩
    exact eq_pack_of_rsv h

/-- R84: conditions 1 to 5 are exactly (w & mask) ≠ match for the opcode's row. -/
theorem row_matches_iff {x : MapEntry} (hx : x ∈ opMap) (w : Word) :
    w &&& x.1.mask = x.1.value ↔
      rsvField w = 0 ∧ (opField w).toNat = x.2.1 ∧ x.FieldsAllowed (dField w) (aField w) (bField w) (cField w) := by
  obtain ⟨hv, hop⟩ := value_eq_pack x hx
  obtain ⟨hr, ho, hd, ha, hb, hc⟩ := mask_fields x hx
  have and_ones (f : BitVec 8) : f &&& 255 = f := BitVec.and_allOnes
  rw [hv, eq_pack_iff, rsvField_and, opField_and, dField_and, aField_and, bField_and, cField_and, hr, ho, hd, ha, hb, hc]
  simp only [and_fixedBits_eq_zero_iff, and_ones, ← hop, BitVec.toNat_inj, MapEntry.FieldsAllowed]

/-! #### What decoding gives, kind by kind -/

/-- A slot field takes every value (R81). -/
@[simp] theorem allows_S (f : BitVec 4) : OperandKind.S.Allows f := trivial

/-- The decoder's answer is a command of mnemonic `m`. -/
def DecodesAs (r : Except DecodeError Instr) (m : String) : Prop := ∃ i, r = .ok i ∧ i.mnemonic = m

section
variable {m : String} {f : BitVec 4} {α : Type}

theorem bind_decodesAs_iff {r : Except DecodeError α} {k : α → Except DecodeError Instr} :
    DecodesAs (r >>= k) m ↔ ∃ x, r = .ok x ∧ DecodesAs (k x) m := by
  cases r with
  | error e => simp [DecodesAs, bind, Except.bind]
  | ok x => simp [bind, Except.bind]

@[simp] theorem pure_decodesAs_iff {i : Instr} : DecodesAs (pure i) m ↔ i.mnemonic = m := by
  simp [DecodesAs, pure, Except.pure]

@[simp] theorem not_error_decodesAs (e : DecodeError) : ¬ DecodesAs (.error e) m := by
  simp [DecodesAs]

theorem readZ_eq_ok_iff {u : Unit} : readZ f = .ok u ↔ OperandKind.Z.Allows f := by
  simp [readZ, OperandKind.Allows]

theorem exists_readSP_eq_ok_iff : (∃ h, readSP f = .ok h) ↔ OperandKind.SP.Allows f := by
  unfold readSP
  split <;> simp_all [OperandKind.Allows]

theorem exists_readPR_eq_ok_iff : (∃ j, readPR f = .ok j) ↔ OperandKind.PR.Allows f := by
  unfold readPR
  split <;> simp_all [OperandKind.Allows] <;> omega

end

/-- Condition 6 of R84 does not hold: a command of this mnemonic is no KEYPAIR with d = b or d = b + 1. -/
def NoOverlap (m : String) (d b : BitVec 4) : Prop := m = "KEYPAIR" → d.toNat ≠ b.toNat ∧ d.toNat ≠ b.toNat + 1

theorem keypairOverlap_eq_false_iff (d : BitVec 4) {b : BitVec 4} {h : PairIx} (hb : readSP b = .ok h) :
    keypairOverlap (readS d) h = false ↔ d.toNat ≠ b.toNat ∧ d.toNat ≠ b.toNat + 1 := by
  simp [readSP_ok hb, keypairOverlap, fieldSP_toNat, Fin.ext_iff, readS, PairIx.low, PairIx.high]

/-- KEYPAIR: the kinds of its row, and d outside the pair DP[b]. -/
theorem keypair_decodesAs_iff {m : String} {d a b c : BitVec 4} :
    DecodesAs (decodeOp 0x30 d a b c) m ↔
      OperandKind.SP.Allows b ∧ OperandKind.Z.Allows c ∧ (d.toNat ≠ b.toNat ∧ d.toNat ≠ b.toNat + 1) ∧ "KEYPAIR" = m := by
  have build (h : PairIx) (hb : readSP b = .ok h) :
      DecodesAs (if keypairOverlap (readS d) h then .error .keypairOverlap else pure (.keypair (readS d) (readS a) h)) m ↔
        (d.toNat ≠ b.toNat ∧ d.toNat ≠ b.toNat + 1) ∧ "KEYPAIR" = m := by
    rw [← keypairOverlap_eq_false_iff d hb]
    cases keypairOverlap (readS d) h <;> simp [Instr.mnemonic]
  simp only [decodeOp, bind_decodesAs_iff, readZ_eq_ok_iff, ← exists_readSP_eq_ok_iff]
  constructor
  · rintro ⟨h, hb, -, hc, hk⟩
    exact ⟨⟨h, hb⟩, hc, (build h hb).1 hk⟩
  · rintro ⟨⟨h, hb⟩, hc, hk⟩
    exact ⟨h, hb, (), hc, (build h hb).2 hk⟩

/-- The decoder on an opcode of the map: the kinds of the row, and for KEYPAIR the constraint (R83). -/
theorem decodeOp_decodesAs_iff {m : String} {d a b c : BitVec 4} : ∀ x ∈ opMap,
    (DecodesAs (decodeOp x.2.1 d a b c) m ↔ x.FieldsAllowed d a b c ∧ NoOverlap x.1.mnemonic d b ∧ x.1.mnemonic = m) := by
  -- one goal for each of the 24 rows; KEYPAIR has its own lemma, since its constraint reads the pair just decoded
  simp only [opMap, opRows, opKinds, List.cons_append, List.nil_append, List.zip_cons_cons, List.zip_nil_right,
    List.forall_mem_cons, keypair_decodesAs_iff]
  -- in the others each bind contributes the condition of its field's kind, and the mnemonic does not depend on operands
  simp [-bind_pure_comp, decodeOp, bind_decodesAs_iff, readZ_eq_ok_iff, exists_readSP_eq_ok_iff, exists_readPR_eq_ok_iff,
    MapEntry.FieldsAllowed, NoOverlap, Instr.mnemonic, and_assoc]

/-- R84 (1): the decoder rejects every opcode outside the map. -/
theorem decodeOp_of_not_mem {op : Nat} {d a b c : BitVec 4} (h : op ∉ opKinds.map Prod.fst) :
    decodeOp op d a b c = .error .reservedOpcode := by
  unfold decodeOp
  split
  case h_25 => rfl
  all_goals exact absurd (by decide) h

theorem decode_of_rsvField {w : Word} (h : rsvField w = 0) :
    decode w = decodeOp (opField w).toNat (dField w) (aField w) (bField w) (cField w) := if_pos h

theorem decode_of_rsvField_ne {w : Word} (h : rsvField w ≠ 0) : decode w = .error .reservedBits := if_neg h

/-- A word is decoded as a command of mnemonic `m` exactly when it meets the conditions of a row of that mnemonic. -/
theorem decode_decodesAs_iff {w : Word} {m : String} : DecodesAs (decode w) m ↔
    ∃ x ∈ opMap, w &&& x.1.mask = x.1.value ∧ NoOverlap x.1.mnemonic (dField w) (bField w) ∧ x.1.mnemonic = m := by
  constructor
  · intro h
    have hrsv : rsvField w = 0 := by
      by_contra hne
      simp [decode_of_rsvField_ne hne] at h
    rw [decode_of_rsvField hrsv] at h
    have hmem : (opField w).toNat ∈ opKinds.map Prod.fst := by
      by_contra hne
      simp [decodeOp_of_not_mem hne] at h
    obtain ⟨e, he, hop⟩ := List.mem_map.1 hmem
    obtain ⟨r, hx⟩ := mem_opKinds_iff.1 he
    rw [← hop, decodeOp_decodesAs_iff (r, e) hx] at h
    obtain ⟨hfields, hrest⟩ := h
    exact ⟨(r, e), hx, (row_matches_iff hx w).2 ⟨hrsv, hop.symm, hfields⟩, hrest⟩
  · rintro ⟨x, hx, hmatch, hrest⟩
    obtain ⟨hrsv, hop, hfields⟩ := (row_matches_iff hx w).1 hmatch
    rw [decode_of_rsvField hrsv, hop, decodeOp_decodesAs_iff x hx]
    exact ⟨hfields, hrest⟩

/-- Settles O3: decoding meets a row of the opcode map exactly when its mask and match do. -/
theorem wordIsLegalExactlyWhenARowMatches : Obligations.WordIsLegalExactlyWhenARowMatches := by
  intro w m
  refine decode_decodesAs_iff.trans ⟨?_, ?_⟩
  · rintro ⟨⟨r, e⟩, hx, hmatch, hover, rfl⟩
    exact ⟨r, mem_opRows_iff.2 ⟨e, hx⟩, rfl, hmatch, hover⟩
  · rintro ⟨r, hr, rfl, hmatch, hover⟩
    obtain ⟨e, hx⟩ := mem_opRows_iff.1 hr
    exact ⟨(r, e), hx, hmatch, hover, rfl⟩

/-! #### Illegal words (R84, R202) -/

theorem eq_of_mem_opKinds : ∀ e ∈ opKinds, ∀ e' ∈ opKinds, e.1 = e'.1 → e = e' := by decide

theorem mnemonic_of_opcode_keypair : ∀ x ∈ opMap, x.2.1 = 0x30 → x.1.mnemonic = "KEYPAIR" := by decide

/-- R84: each of the six conditions contradicts the row a decoded word belongs to. -/
theorem decode_ne_ok_of_illegalWord {w : Word} (h : IllegalWord w) (i : Instr) : decode w ≠ .ok i := by
  intro hi
  obtain ⟨⟨r, e⟩, hx, hmatch, hover, -⟩ := decode_decodesAs_iff.1 ⟨i, hi, rfl⟩
  obtain ⟨hrsv, hop, hfields⟩ := (row_matches_iff hx w).1 hmatch
  have he : e ∈ opKinds := mem_opKinds_iff.2 ⟨r, hx⟩
  rcases h with hnot | hbits | ⟨e', he', hop', hkinds⟩ | ⟨hkp, heq⟩
  · exact hnot e he hop.symm
  · exact hbits hrsv
  · obtain rfl := eq_of_mem_opKinds e' he' e he (hop'.trans hop)
    exact hkinds hfields
  · have hne := hover (mnemonic_of_opcode_keypair _ hx (hop.symm.trans hkp))
    exact heq.elim hne.1 hne.2

theorem step_of_engineTurn {s u : State} (h : s.EngineTurn u) : step s = engineStep u := by
  rcases h with ⟨he, rfl⟩ | ⟨es, he, rfl⟩ <;> simp only [step, he]

theorem engine_of_engineTurn {s u : State} (h : s.EngineTurn u) : u.engine = s.engine := by
  rcases h with ⟨-, rfl⟩ | ⟨es, -, rfl⟩ <;> rfl

theorem engineStep_of_decode_ne_ok {s : State} {w : Word} (hb : s.engine = .busy w) (hd : ∀ i, decode w ≠ .ok i) :
    engineStep s = .next (s.complete .illegal) := by
  cases h : decode w with
  | ok i => exact absurd h (hd i)
  | error e => simp only [engineStep, hb, h, finish_error]

/-- A completion with no result writes only the life cycle's flags (R37, R200). -/
theorem failsWith_complete (s : State) (e : ErrCode) : s.FailsWith (s.complete e) e := by
  simp [State.FailsWith, State.EndsWith, State.ControlKept, State.SlotsKeptBut, State.PointsKeptBut, State.MsgKept,
    State.ResultsKept]

/-- Settles O6: an illegal word does not decode, so the engine's step is the completion with ILLEGAL. -/
theorem illegalWordEndsIllegalAndChangesNothing : Obligations.IllegalWordEndsIllegalAndChangesNothing := by
  intro s u w hturn hbusy hill
  have hu : u.engine = .busy w := (engine_of_engineTurn hturn).trans hbusy
  exact ⟨u.complete .illegal,
    (step_of_engineTurn hturn).trans (engineStep_of_decode_ne_ok hu (decode_ne_ok_of_illegalWord hill)),
    failsWith_complete u .illegal⟩

end Sys2Proof.Proofs
end

/-! ### Proofs: the field commands (R100 to R108) -/

section
namespace Sys2Proof.Proofs
open Sys2Proof.Machine

/-! #### Completions that write slots and point registers (R37) -/

/-- A completion with ERR = OK of a result that differs from the state only in its slots and point registers. -/
theorem completesWriting_complete {s u : State} {slots : List SlotIx} {points : List PointIx}
    (hu : u = { s with slots := u.slots, points := u.points }) (hslots : s.SlotsKeptBut u slots)
    (hpoints : s.PointsKeptBut u points) : s.CompletesWriting (u.complete .ok) slots points := by
  refine ⟨⟨rfl, rfl, rfl⟩, ?_, hslots, hpoints, ?_, ?_⟩ <;> rw [hu]
  · exact ⟨rfl, rfl, rfl, rfl, rfl, rfl, rfl⟩
  · exact fun n => rfl
  · exact ⟨rfl, rfl, rfl⟩

theorem completesWriting_setSlot (s : State) (d : SlotIx) (v : Slot) :
    s.CompletesWriting ((s.setSlot d v).complete .ok) [d] [] :=
  completesWriting_complete rfl (fun _ hi => State.slot_setSlot_of_ne s v (List.ne_of_not_mem_cons hi)) fun _ _ => rfl

theorem completesWriting_setSlot_setSlot (s : State) (d a : SlotIx) (v w : Slot) :
    s.CompletesWriting (((s.setSlot d v).setSlot a w).complete .ok) [d, a] [] := by
  refine completesWriting_complete rfl (fun i hi => ?_) fun _ _ => rfl
  obtain ⟨hd, ha⟩ : i ≠ d ∧ i ≠ a := by simpa using hi
  rw [State.slot_setSlot_of_ne _ _ ha, State.slot_setSlot_of_ne _ _ hd]

/-! #### Field elements as R12, R101 to R106 write them -/

/-- FE of a field element is its canonical encoding (R12). -/
theorem encodes_fe {v : Nat} (h : v < fieldPrime) : Encodes (fe v) v := by
  have hv : v < 2 ^ 255 := h.trans fieldPrime_lt
  have hval : leValue (fe v) = v := by rw [leValue_eq, fe, toNat_leb32 (hv.trans (by norm_num))]
  refine ⟨hval, fieldPrime_eq ▸ h, Nat.testBit_lt_two_pow ?_⟩
  rwa [← leValue_eq, hval]

theorem fieldOf_eq_fieldValue (s : State) (i : SlotIx) : s.fieldOf i = fieldValue (s.slot i) := (fieldValue_eq _).symm

theorem fieldOf_lt (s : State) (i : SlotIx) : s.fieldOf i < fieldPrime := fd_lt _

theorem fpAdd_eq (x y : Nat) : fpAdd x y = (x + y) % (2 ^ 255 - 19) := by rw [fpAdd, fieldPrime_eq]

theorem fpMul_eq (x y : Nat) : fpMul x y = x * y % (2 ^ 255 - 19) := by rw [fpMul, fieldPrime_eq]

/-- The model subtracts by adding p - y; R102 takes the non-negative residue of the integer difference (R7). -/
theorem fpSub_eq (x y : Nat) : fpSub x y = (((x : Int) - y) % (2 ^ 255 - 19)).toNat := by
  rw [fpSub, fieldPrime_eq]
  omega

theorem fpNeg_eq {x : Nat} (h : x < fieldPrime) : fpNeg x = (2 ^ 255 - 19 - x) % (2 ^ 255 - 19) := by
  rw [fpNeg, Nat.mod_eq_of_lt h, fieldPrime_eq]

/-! #### The commands -/

/-- A command that ends with FE of a field element in D[d] (R100). -/
theorem exec_writes_fieldElement {i : Instr} {s : State} {d : SlotIx} {v : Nat} (hv : v < fieldPrime)
    (hexec : exec i s = finish s (.ok (s.setSlot d (fe v)))) :
    ∃ t, exec i s = .next t ∧ Encodes (t.slot d) v ∧ s.CompletesWriting t [d] [] := by
  refine ⟨_, hexec, ?_, completesWriting_setSlot s d (fe v)⟩
  rw [State.complete_slot, State.slot_setSlot_self]
  exact encodes_fe hv

/-- Settles O32: each of the three writes FE of the model's sum, difference or product, which is the spec's. -/
theorem fieldSumDifferenceAndProduct : Obligations.FieldSumDifferenceAndProduct := by
  intro d a b s
  simp only [← fpAdd_eq, ← fpSub_eq, ← fpMul_eq, ← fieldOf_eq_fieldValue]
  exact ⟨exec_writes_fieldElement (fpAdd_lt _ _) rfl, exec_writes_fieldElement (fpSub_lt _ _) rfl,
    exec_writes_fieldElement (fpMul_lt _ _) rfl⟩

/-- Settles O33: FSQ writes FE of the product of x with itself, FNEG of the model's negation, FCANON of x. -/
theorem fieldSquareNegationAndCanonicalForm : Obligations.FieldSquareNegationAndCanonicalForm := by
  intro d a s
  simp only [← fpMul_eq, ← fieldOf_eq_fieldValue, ← fpNeg_eq (fieldOf_lt _ _)]
  exact ⟨exec_writes_fieldElement (fpMul_lt _ _) rfl, exec_writes_fieldElement (fpNeg_lt _) rfl,
    exec_writes_fieldElement (fieldOf_lt s a) rfl⟩

/-- A command that ends with FE(v) in D[d] and then FE(w) in D[a]: where the two are one slot, the values must agree. -/
theorem exec_writes_two_fieldElements {i : Instr} {s : State} {d a : SlotIx} {v w : Nat} (hv : v < fieldPrime)
    (hw : w < fieldPrime) (hsame : d = a → v = w)
    (hexec : exec i s = finish s (.ok ((s.setSlot d (fe v)).setSlot a (fe w)))) :
    ∃ t, exec i s = .next t ∧ s.CompletesWriting t [d, a] [] ∧ Encodes (t.slot d) v ∧ Encodes (t.slot a) w := by
  refine ⟨_, hexec, completesWriting_setSlot_setSlot s d a (fe v) (fe w), ?_, ?_⟩ <;> rw [State.complete_slot]
  · by_cases h : d = a
    · rw [← h, State.slot_setSlot_self, ← hsame h]
      exact encodes_fe hv
    · rw [State.slot_setSlot_of_ne _ _ h, State.slot_setSlot_self]
      exact encodes_fe hv
  · rw [State.slot_setSlot_self]
    exact encodes_fe hw

theorem exec_fcswap (d a b : SlotIx) (s : State) :
    exec (.fcswap d a b) s = finish s (.ok (if (s.slot b).getLsbD 0 then
      (s.setSlot d (fe (s.fieldOf a))).setSlot a (fe (s.fieldOf d))
    else (s.setSlot d (fe (s.fieldOf d))).setSlot a (fe (s.fieldOf a)))) := rfl

/-- R107's condition: bit 0 of byte 0 of a slot is its bit 0. -/
theorem getLsbD_byteAt_zero (w : Slot) : (byteAt w 0).getLsbD 0 = w.getLsbD 0 := getLsbD_byteAt w 0 0

/-- Settles O35: both slots are written in either case of the condition, and where d = a the two elements are one. -/
theorem conditionalSwapRewritesBothSlots : Obligations.ConditionalSwapRewritesBothSlots := by
  intro d a b s
  simp only [getLsbD_byteAt_zero, ← fieldOf_eq_fieldValue]
  have hsame (h : d = a) : s.fieldOf a = s.fieldOf d := by rw [h]
  have hexec := exec_fcswap d a b s
  cases hc : (s.slot b).getLsbD 0 with
  | true =>
    rw [if_pos hc] at hexec
    obtain ⟨t, ht, hframe, hd, ha⟩ := exec_writes_two_fieldElements (fieldOf_lt s _) (fieldOf_lt s _) hsame hexec
    exact ⟨t, ht, hframe, fun _ => ⟨hd, ha⟩, nofun, fun h => hsame h ▸ hd⟩
  | false =>
    rw [if_neg (Bool.eq_false_iff.1 hc)] at hexec
    obtain ⟨t, ht, hframe, hd, ha⟩ :=
      exec_writes_two_fieldElements (fieldOf_lt s _) (fieldOf_lt s _) (fun h => (hsame h).symm) hexec
    exact ⟨t, ht, hframe, nofun, fun _ => ⟨hd, ha⟩, fun _ => hd⟩

end Sys2Proof.Proofs
end

/-! ### Proofs: the scalar commands (R130 to R132) -/

section
namespace Sys2Proof.Proofs
open Sys2Proof.Machine

/-- ℓ as the model writes it is ℓ as R13 writes it. -/
theorem groupOrder_eq : groupOrder = orderL := by norm_num [groupOrder, orderL]

theorem scalarOf_eq_leValue (s : State) (i : SlotIx) : s.scalarOf i = leValue (s.slot i) := (leValue_eq _).symm

/-- R130: a pair source is read as LE of its 64 bytes. -/
theorem toNat_pair (s : State) (k : PairIx) :
    (s.pair k).toNat = leValue (s.slot k.low) + 2 ^ 256 * leValue (s.slot k.high) := by
  rw [State.pair, toNat_join, leValue_eq, leValue_eq]

theorem mulAddMod_eq (x y z : Nat) : mulAddMod x y z = (x * y + z) % orderL := by rw [mulAddMod, groupOrder_eq]

/-- R130: LEB_32 of a residue modulo ℓ has its value, and leaves bits 255 to 253 clear, since ℓ < 2^253. -/
theorem leb32_of_lt_groupOrder {v : Nat} (h : v < groupOrder) :
    leValue (leb32 v) = v ∧ (leb32 v).extractLsb' 253 3 = 0 := by
  have hlt : v < 2 ^ 253 := h.trans groupOrder_lt
  have hval : (leb32 v).toNat = v := toNat_leb32 (hlt.trans (by norm_num))
  refine ⟨(leValue_eq _).trans hval, BitVec.eq_of_toNat_eq ?_⟩
  rw [BitVec.extractLsb'_toNat, hval, Nat.shiftRight_eq_div_pow, Nat.div_eq_of_lt hlt]
  rfl

/-- A command that ends with LEB_32 of a residue modulo ℓ in D[d] (R130). -/
theorem exec_writes_scalar {i : Instr} {s : State} {d : SlotIx} {v : Nat} (hv : v < groupOrder)
    (hexec : exec i s = finish s (.ok (s.setSlot d (leb32 v)))) :
    ∃ t, exec i s = .next t ∧ leValue (t.slot d) = v ∧ (t.slot d).extractLsb' 253 3 = 0 ∧
      s.CompletesWriting t [d] [] := by
  obtain ⟨hval, htop⟩ := leb32_of_lt_groupOrder hv
  refine ⟨_, hexec, ?_, ?_, completesWriting_setSlot s d (leb32 v)⟩ <;>
    rw [State.complete_slot, State.slot_setSlot_self]
  · exact hval
  · exact htop

/-- Settles O36: SRED writes the residue of its pair's value, SMULADD the model's multiply-add, which is the spec's. -/
theorem scalarReductionAndMultiplyAdd : Obligations.ScalarReductionAndMultiplyAdd := by
  refine fun s => ⟨fun d a => ?_, fun d a b c => ?_⟩
  · rw [← toNat_pair, ← groupOrder_eq]
    exact exec_writes_scalar (Nat.mod_lt _ groupOrder_pos) rfl
  · rw [← mulAddMod_eq, ← scalarOf_eq_leValue, ← scalarOf_eq_leValue, ← scalarOf_eq_leValue]
    exact exec_writes_scalar (mulAddMod_lt _ _ _) rfl

end Sys2Proof.Proofs
end

/-! ### Proofs: the point commands (R140 to R149) -/

section
namespace Sys2Proof.Proofs
open Sys2Proof.Machine

/-! #### What a point command answers (R37, R200) -/

theorem completesWriting_setPoint (s : State) (d : PointIx) (q : Point) :
    s.CompletesWriting ((s.setPoint d q).complete .ok) [] [d] :=
  completesWriting_complete rfl (fun _ _ => rfl) fun _ hj => State.point_setPoint_of_ne s q (List.ne_of_not_mem_cons hj)

/-- A command that ends with the point q in P[d]. -/
theorem exec_writes_point {i : Instr} {s : State} {d : PointIx} {q : Point}
    (hexec : exec i s = .next ((s.setPoint d q).complete .ok)) :
    ∃ t, exec i s = .next t ∧ t.point d = some q ∧ s.CompletesWriting t [] [d] := by
  refine ⟨_, hexec, ?_, completesWriting_setPoint s d q⟩
  rw [State.complete_point, State.point_setPoint_self]

/-- A command that fails with a code (R200). -/
theorem exec_fails {i : Instr} {s : State} {e : ErrCode} (hexec : exec i s = .next (s.complete e)) :
    ∃ t, exec i s = .next t ∧ s.FailsWith t e :=
  ⟨_, hexec, failsWith_complete s e⟩

/-! #### Decoding: the three outcomes of R19 -/

theorem fpNeg_fpNeg {x : Nat} (hx : x < fieldPrime) : fpNeg (fpNeg x) = x := by
  rw [← fp_eq_iff (fpNeg_lt _) hx, cast_fpNeg, cast_fpNeg, neg_neg]

theorem fpNeg_zero : fpNeg 0 = 0 := rfl

/-- The two roots of an encoding as field elements. -/
theorem root_eq_or_eq_fpNeg {w : Slot} {x r : Nat} (hx : IsRootFor w x) (hr : IsRootFor w r) : r = x ∨ r = fpNeg x :=
  (roots_of_isRootFor hx hr).imp_right fun h => (fp_eq_iff hr.1 (fpNeg_lt x)).1 (h.trans (cast_fpNeg x).symm)

theorem pointDecode_of_noRoot {w : Slot} (h : ¬ ∃ x, IsRootFor w x) : pointDecode w = .error .notOnCurve :=
  pointDecode_of_none (Option.eq_none_iff_forall_ne_some.2 fun r hr => h ⟨r, isRootFor_of_decodeRoot hr⟩)

theorem pointDecode_of_zeroRoot {w : Slot} (h : IsRootFor w 0) (hsign : w.getLsbD 255 = true) :
    pointDecode w = .error .negZero := by
  obtain ⟨r, hr⟩ := decodeRoot_of_isRootFor h
  have h0 : r = 0 := (root_eq_or_eq_fpNeg h (isRootFor_of_decodeRoot hr)).elim id (·.trans fpNeg_zero)
  rw [pointDecode_of_some hr, hsign, if_pos ⟨h0, rfl⟩]

/-- The search may find either root; the sign bit picks the one of its parity (R18). -/
theorem pointDecode_of_rootOfSign {w : Slot} {x : Nat} (h : IsRootFor w x) (hsign : x % 2 = (w.getLsbD 255).toNat) :
    pointDecode w = .ok ⟨x, fieldValue w⟩ := by
  obtain ⟨r, hr⟩ := decodeRoot_of_isRootFor h
  rw [fieldValue_eq, pointDecode_of_some hr, ← hsign]
  by_cases hrx : r = x
  · rw [hrx, if_neg (by omega), if_pos rfl]
  · have hneg : r = fpNeg x := (root_eq_or_eq_fpNeg h (isRootFor_of_decodeRoot hr)).resolve_left hrx
    have hback : fpNeg r = x := by rw [hneg, fpNeg_fpNeg h.1]
    have hx0 : x ≠ 0 := by rintro rfl; exact hrx (hneg.trans fpNeg_zero)
    have hr0 : r ≠ 0 := by rintro rfl; exact hx0 hback.symm
    have hparity : r % 2 = 1 - x % 2 := hneg ▸ fpNeg_mod_two h.1 hx0
    rw [if_neg fun hz => hr0 hz.1, if_neg (by omega), hback]

/-- A root of the encoding's equation gives a point of E: R19's equation is R14's with the terms of x collected. -/
theorem onCurve_of_isRootFor {w : Slot} {x : Nat} (h : IsRootFor w x) : OnCurve ⟨x, fieldValue w⟩ := by
  refine ⟨h.1, fieldValue_eq w ▸ fd_lt w, Int.emod_eq_zero_of_dvd ?_⟩
  obtain ⟨k, hk⟩ := Int.dvd_of_emod_eq_zero h.2
  exact ⟨-k, by dsimp only; linear_combination -hk⟩

/-- Settles O37: each premise fixes the decoder's outcome, and PDECN negates the point PDEC loads. -/
theorem pointDecodeFindsTheRootOfTheSign : Obligations.PointDecodeFindsTheRootOfTheSign := by
  refine fun d a s => ⟨fun hno => ?_, fun hzero hsign => ?_, fun x hx hsign => ?_⟩
  · have hdec := pointDecode_of_noRoot hno
    exact ⟨exec_fails (exec_pdec_of_error hdec), exec_fails (exec_pdecn_of_error hdec)⟩
  · have hdec := pointDecode_of_zeroRoot hzero hsign
    exact ⟨exec_fails (exec_pdec_of_error hdec), exec_fails (exec_pdecn_of_error hdec)⟩
  · have hdec := pointDecode_of_rootOfSign hx hsign
    obtain ⟨t, ht, hpoint, hframe⟩ := exec_writes_point (exec_pdec_of_ok (d := d) hdec)
    refine ⟨⟨t, ht, hpoint, onCurve_of_isRootFor hx, hframe⟩, ?_⟩
    rw [← fpNeg_eq hx.1]
    exact exec_writes_point (exec_pdecn_of_ok hdec)

/-! #### Encoding -/

/-- PE's 32 bytes have room for y < p and the sign (R19). -/
theorem leValue_pointEncode {q : Point} (hy : q.y < fieldPrime) :
    leValue (pointEncode q) = q.y + 2 ^ 255 * (q.x % 2) := by
  have hy' : q.y < 2 ^ 255 := hy.trans fieldPrime_lt
  rw [leValue_eq, pointEncode, signOf, toNat_leb32 (by omega)]

/-- Settles O40: with a valid source PENC writes PE of the point, whose value is R142's. -/
theorem pointEncodeWritesYAndSign : Obligations.PointEncodeWritesYAndSign := by
  refine fun d a s => ⟨fun q hq hcurve => ?_, fun hnone => exec_fails (exec_penc_of_none hnone)⟩
  refine ⟨_, exec_penc_of_some hq, ?_, completesWriting_setSlot s d (pointEncode q)⟩
  rw [State.complete_slot, State.slot_setSlot_self]
  exact leValue_pointEncode hcurve.lt.2

/-! #### Sum and negation -/

/-- R16's equations with the denominators multiplied out, over GF(p). -/
theorem isSum_iff (p q r : Point) : IsSum p q r ↔ r.x < fieldPrime ∧ r.y < fieldPrime ∧
    (r.x : Fp) * (1 + curveD * p.x * q.x * p.y * q.y) = p.x * q.y + p.y * q.x ∧
    (r.y : Fp) * (1 - curveD * p.x * q.x * p.y * q.y) = p.y * q.y + p.x * q.x := by
  refine and_congr_right fun _ => and_congr_right fun _ => and_congr ?_ ?_ <;>
    (rw [← Int.dvd_iff_emod_eq_zero, ← ZMod.intCast_zmod_eq_zero_iff_dvd]; push_cast; exact sub_eq_zero)

/-- The model's sum satisfies the group law on E, its denominators being invertible there. -/
theorem isSum_add {q r : Point} (hq : OnCurve q) (hr : OnCurve r) : IsSum q r (q.add r) := by
  let _ := fpField
  obtain ⟨hplus, hminus⟩ := hq.denoms hr
  refine (isSum_iff q r _).2 ⟨(Point.add_lt q r).1, (Point.add_lt q r).2, ?_, ?_⟩
  · rw [(cast_add q r).1]
    exact inv_mul_cancel_right₀ hplus _
  · rw [(cast_add q r).2]
    exact inv_mul_cancel_right₀ hminus _

/-- A command that ends with the model's sum of two points of E in P[d]. -/
theorem exec_writes_sum {i : Instr} {s : State} {d : PointIx} {q r : Point} (hq : OnCurve q) (hr : OnCurve r)
    (hexec : exec i s = .next ((s.setPoint d (q.add r)).complete .ok)) :
    ∃ t u, exec i s = .next t ∧ t.point d = some u ∧ IsSum q r u ∧ OnCurve u ∧ s.CompletesWriting t [] [d] := by
  obtain ⟨t, ht, hpoint, hframe⟩ := exec_writes_point hexec
  exact ⟨t, _, ht, hpoint, isSum_add hq hr, hq.add hr, hframe⟩

/-- Settles O41: both commands write the model's sum, which satisfies the law of R16 on E. -/
theorem pointSumSatisfiesTheGroupLaw : Obligations.PointSumSatisfiesTheGroupLaw := fun _ _ _ _ =>
  ⟨fun _ _ ha hb hq hr => exec_writes_sum hq hr (exec_padd_of_some ha hb),
    fun _ ha hq => exec_writes_sum hq hq (exec_pdbl_of_some ha),
    fun hnone => exec_fails (exec_padd_of_none hnone), fun hnone => exec_fails (exec_pdbl_of_none hnone)⟩

/-- Settles O43: PNEG writes the model's negation, which is R147's. -/
theorem pointNegateNegatesX : Obligations.PointNegateNegatesX := by
  refine fun d a s => ⟨fun q hq hcurve => ?_, fun hnone => exec_fails (exec_pneg_of_none hnone)⟩
  rw [← fpNeg_eq hcurve.lt.1]
  exact exec_writes_point (exec_pneg_of_some hq)

/-! #### Scalar multiplication -/

/-- [ℓ]B = O (R13, R15), evaluated by the model's doubling and adding. -/
theorem basePoint_multiple_orderL : basePoint.multiple orderL = Point.zero := by
  rw [← groupOrder_eq, ← onCurve_basePoint.smul]
  decide +kernel

/-- [k]B = [k mod ℓ]B (R146). -/
theorem basePoint_multiple_mod (k : Nat) : basePoint.multiple k = basePoint.multiple (k % orderL) := by
  have hmod := onCurve_basePoint.multiple (k % orderL)
  calc basePoint.multiple k
      = basePoint.multiple (orderL * (k / orderL) + k % orderL) := by rw [Nat.div_add_mod]
    _ = (basePoint.multiple (orderL * (k / orderL))).add (basePoint.multiple (k % orderL)) :=
        onCurve_basePoint.multiple_add _ _
    _ = basePoint.multiple (k % orderL) := by
        rw [onCurve_basePoint.multiple_mul, basePoint_multiple_orderL, zero_multiple, Point.zero_add hmod.lt]

/-- Settles O45: PSMB's range check splits the cases, and the model's [k]B is the recursion's. -/
theorem fixedBaseMultiplyWritesTheMultiple : Obligations.FixedBaseMultiplyWritesTheMultiple := by
  intro d a s
  rw [← scalarOf_eq_leValue, ← onCurve_basePoint.smul]
  exact ⟨fun hlt => exec_writes_point (exec_psmb_of_lt hlt), fun hle => exec_fails (exec_psmb_of_le hle),
    basePoint_multiple_mod⟩

/-- Settles O46: the order of PDSM's checks gives the cases, and the model's multiples are the recursion's. -/
theorem doubleScalarMultiplyWritesTheSum : Obligations.DoubleScalarMultiplyWritesTheSum := by
  intro d a b c s
  simp only [← scalarOf_eq_leValue]
  refine ⟨fun hnone => exec_fails (exec_pdsm_of_none hnone), fun q hq hle => exec_fails (exec_pdsm_of_le hq hle),
    fun q hq hcurve ha hc => ?_⟩
  rw [← hcurve.smul, ← onCurve_basePoint.smul]
  exact exec_writes_point (exec_pdsm_of_lt hq ha hc)

end Sys2Proof.Proofs
end

/-! ### Proofs: the signature commands (R170 to R186) -/

section
namespace Sys2Proof.Proofs
open Sys2Proof.Machine

/-! #### The common functions as R171 to R173 write them -/

/-- The model's key is R171's: the clamped half's value, and multiples of B by R17's recursion. -/
theorem isPublicKeyOf_publicKey (h : Bytes64) : IsPublicKeyOf (publicKey h) h := by
  rw [IsPublicKeyOf, publicKey, secretScalar, onCurve_basePoint.smul, leValue_eq]

/-- LE of all k bytes of a string of 8k bits is its value (R8). -/
theorem leNat_bytesOf_all {k : Nat} (w : BitVec (8 * k)) : leNat (bytesOf k w) = w.toNat := by
  rw [leNat_bytesOf, show (256 : Nat) = 2 ^ 8 from rfl, ← pow_mul, Nat.mod_eq_of_lt w.isLt]

theorem leNat_bytesOf_64 (w : Bytes64) : leNat (bytesOf 64 w) = w.toNat := leNat_bytesOf_all (k := 64) w

theorem hashScalar_eq (bs : List Byte) : hashScalar bs = hashModL bs := by
  rw [hashScalar, hashModL, leNat_bytesOf_64, groupOrder_eq]

/-- Whichever root the decoder takes, the point is on E, as its negation is. -/
theorem onCurve_of_pointDecode {w : Slot} {Q : Point} (h : pointDecode w = .ok Q) : OnCurve Q := by
  cases hroot : decodeRoot (fd w) with
  | none => rw [pointDecode_of_none hroot] at h; cases h
  | some r =>
    have hr : OnCurve ⟨r, fd w⟩ := fieldValue_eq w ▸ onCurve_of_isRootFor (isRootFor_of_decodeRoot hroot)
    rw [pointDecode_of_some hroot] at h
    split_ifs at h
    · cases h; exact hr
    · cases h; exact hr.neg

theorem sCheck_iff (strictS : Bool) (S : Slot) :
    sCheck strictS S = true ↔ byteAt S 31 &&& 0xE0 = 0 ∧ (strictS = true → leValue S < orderL) := by
  rw [leValue_eq, ← groupOrder_eq]
  cases strictS <;> simp [sCheck]

theorem verifyEquation_iff (M : List Byte) (sig : Bytes64) (A : Slot) {Q : Point} (hQ : OnCurve Q) :
    verifyEquation M sig A Q = true ↔
      pointEncode ((Q.neg.multiple (hashModL (slotBytes (firstHalf sig) ++ slotBytes A ++ M))).add
        (basePoint.multiple (leValue (secondHalf sig)))) = firstHalf sig := by
  rw [verifyEquation, beq_iff_eq, hQ.neg.smul, onCurve_basePoint.smul, hashScalar_eq, leValue_eq]

/-- The model's VerifyCore decides R173's predicate. -/
theorem verifyCore_iff (strictS : Bool) (M : List Byte) (sig : Bytes64) (A : Slot) :
    verifyCore strictS M sig A = true ↔ Verifies strictS M sig A := by
  rw [Verifies, ← and_assoc, ← sCheck_iff]
  cases hdec : pointDecode A with
  | error e => simp [verifyCore_of_error hdec]
  | ok Q => simp [verifyCore_of_ok hdec, verifyEquation_iff M sig A (onCurve_of_pointDecode hdec)]

/-! #### KEYPAIR (R175) -/

theorem exec_keypair_of_overlap {d a : SlotIx} {b : PairIx} (s : State) (h : d = b.low ∨ d = b.high) :
    exec (.keypair d a b) s = .next (s.complete .illegal) := by
  have hover : keypairOverlap d b = true := by simpa [keypairOverlap] using h
  simp only [exec, execKeypair, hover, if_true, finish_error]

theorem pair_setPair_self (s : State) (b : PairIx) (v : Bytes64) : (s.setPair b v).pair b = v := by
  rw [State.pair, State.slot_setPair_low, State.slot_setPair_high, join_halves]

theorem pair_setSlot_of_ne (s : State) {d : SlotIx} {b : PairIx} (v : Slot) (hlow : d ≠ b.low)
    (hhigh : d ≠ b.high) : (s.setSlot d v).pair b = s.pair b := by
  rw [State.pair, State.slot_setSlot_of_ne s v hlow.symm, State.slot_setSlot_of_ne s v hhigh.symm, State.pair]

theorem completesWriting_setPair_setSlot (s : State) (b : PairIx) (h : Bytes64) (d : SlotIx) (v : Slot) :
    s.CompletesWriting (((s.setPair b h).setSlot d v).complete .ok) [d, b.low, b.high] [] := by
  refine completesWriting_complete rfl (fun i hi => ?_) fun _ _ => rfl
  obtain ⟨hd, hlow, hhigh⟩ : i ≠ d ∧ i ≠ b.low ∧ i ≠ b.high := by simpa using hi
  rw [State.slot_setSlot_of_ne _ _ hd, State.slot_setPair_of_ne _ _ _ hlow hhigh]

/-- Settles O48: outside the output pair the write to D[d] keeps the digest written before it. -/
theorem keypairWritesDigestAndPublicKey : Obligations.KeypairWritesDigestAndPublicKey := by
  refine fun d a b s => ⟨fun hlow hhigh => ?_, fun hover => exec_fails (exec_keypair_of_overlap s hover)⟩
  refine ⟨_, exec_keypair_of_ne hlow hhigh, ?_, ?_, completesWriting_setPair_setSlot s b _ d _⟩
  · exact (pair_setSlot_of_ne _ _ hlow hhigh).trans (pair_setPair_self s b _)
  · rw [State.complete_slot, State.slot_setSlot_self]
    exact isPublicKeyOf_publicKey _

/-! #### VERIFY and OPEN (R180, R186) -/

/-- What a completion keeps whose result differs from the state only in VALID, OUT_LEN and MSG. -/
theorem complete_keeps_of_results {s u : State}
    (hu : u = { s with valid := u.valid, outLen := u.outLen, msg := u.msg }) :
    s.ControlKept (u.complete .ok) ∧ s.SlotsKeptBut (u.complete .ok) [] ∧ s.PointsKeptBut (u.complete .ok) [] ∧
      (u.complete .ok).z0 = s.z0 := by
  rw [hu]
  exact ⟨⟨rfl, rfl, rfl, rfl, rfl, rfl, rfl⟩, fun _ _ => rfl, fun _ _ => rfl, rfl⟩

/-- Settles O50: the completion sets VALID to the model's VerifyCore, which decides the predicate. -/
theorem verifySetsValidToThePredicate : Obligations.VerifySetsValidToThePredicate := by
  refine fun a b s => ⟨fun hle => ?_, fun hlt => exec_fails (exec_verify_of_lt hlt)⟩
  obtain ⟨hcontrol, hslots, hpoints, hz0⟩ :=
    complete_keeps_of_results (u := s.setValid (verifyCore s.params.strictS s.message (s.pair a) (s.slot b))) rfl
  exact ⟨_, exec_verify_of_le hle, ⟨rfl, rfl, rfl⟩, verifyCore_iff _ _ _ _, hcontrol, hslots, hpoints, fun _ => rfl,
    hz0, rfl⟩

theorem bytes64_bytesOf (w : Bytes64) : bytes64 (bytesOf 64 w) = w := by
  rw [bytes64, leNat_bytesOf_64, BitVec.ofNat_toNat, BitVec.setWidth_eq]

/-- The 64-byte string OPEN reads from the front of MSG is the one with those bytes. -/
theorem bytes64_memRead {m : Memory} {sig : Bytes64} (h : ∀ j, j < 64 → byteAt sig j = m.byte j) :
    bytes64 (m.memRead 0 64) = sig := by
  have hread : m.memRead 0 64 = bytesOf 64 sig :=
    List.map_congr_left fun j hj => by rw [Nat.zero_add, h j (List.mem_range.1 hj)]
  rw [hread, bytes64_bytesOf]

theorem openVerifies_iff {s : State} {sig : Bytes64} (b : SlotIx) (h : ∀ j, j < 64 → byteAt sig j = s.msg.byte j) :
    openVerifies s b = true ↔
      Verifies s.params.strictS (s.msg.memRead 64 (s.msgLen.toNat - 64)) sig (s.slot b) := by
  rw [openVerifies, bytes64_memRead h, verifyCore_iff]

theorem openResult_of_verifies {s : State} {b : SlotIx} (h : openVerifies s b = true) :
    openResult s b = { s.setValid true with outLen := BitVec.ofNat 32 (s.msgLen.toNat - 64) } := if_pos h

theorem openResult_of_not_verifies {s : State} {b : SlotIx} (h : openVerifies s b = false) :
    openResult s b =
      { s.setValid false with outLen := 0, msg := s.msg.memWrite 0 (List.replicate s.msgLen.toNat 0) } :=
  if_neg (Bool.eq_false_iff.1 h)

theorem openResult_valid (s : State) (b : SlotIx) : (openResult s b).valid = openVerifies s b := by
  cases h : openVerifies s b with
  | true => rw [openResult_of_verifies h, State.setValid_valid]
  | false => rw [openResult_of_not_verifies h, State.setValid_valid]

theorem openResult_eq (s : State) (b : SlotIx) : openResult s b =
    { s with valid := (openResult s b).valid, outLen := (openResult s b).outLen, msg := (openResult s b).msg } := by
  cases h : openVerifies s b with
  | true => rw [openResult_of_verifies h]; rfl
  | false => rw [openResult_of_not_verifies h]; rfl

/-- Zeroing MSG[0..n) (R186). -/
theorem byte_memWrite_zeros (m : Memory) (n k : Nat) :
    (m.memWrite 0 (List.replicate n 0)).byte k = if k < n then 0 else m.byte k := by
  rw [Memory.byte_memWrite, List.length_replicate]
  by_cases hk : k < n
  · rw [if_pos (by omega), if_pos hk, Nat.sub_zero, List.getD_replicate _ hk]
  · rw [if_neg (by omega), if_neg hk]

/-- OUT_LEN holds a difference below MSG_LEN in full. -/
theorem toNat_ofNat_toNat_sub (w : Word) (k : Nat) : (BitVec.ofNat 32 (w.toNat - k)).toNat = w.toNat - k := by
  rw [BitVec.toNat_ofNat, Nat.mod_eq_of_lt (by omega)]

/-- Settles O51: VALID is OPEN's verification, which is the predicate for the signature MSG holds, and its two values
give the two outcomes. -/
theorem openReleasesOrZeroesTheMessage : Obligations.OpenReleasesOrZeroesTheMessage := by
  refine fun b s => ⟨fun h64 hle sig hsig => ?_, fun hout => exec_fails (exec_open_of_lt hout)⟩
  have hvalid : ((openResult s b).complete .ok).valid = openVerifies s b := openResult_valid s b
  obtain ⟨hcontrol, hslots, hpoints, hz0⟩ := complete_keeps_of_results (openResult_eq s b)
  refine ⟨_, exec_open_of_le h64 hle, ⟨rfl, rfl, rfl⟩, ?_, fun htrue => ?_, fun hfalse => ?_,
    hcontrol, hslots, hpoints, hz0⟩
  · rw [hvalid]
    exact openVerifies_iff b hsig
  · rw [openResult_of_verifies (hvalid.symm.trans htrue)]
    exact ⟨toNat_ofNat_toNat_sub _ _, fun _ => rfl⟩
  · rw [openResult_of_not_verifies (hvalid.symm.trans hfalse)]
    exact ⟨rfl, fun k hk => (byte_memWrite_zeros s.msg _ k).trans (if_pos hk),
      fun k hk => (byte_memWrite_zeros s.msg _ k).trans (if_neg hk.not_gt)⟩

end Sys2Proof.Proofs
end

/-! ### Proofs: failed commands and the interrupt (R200, R210) -/

section
namespace Sys2Proof.Proofs
open Sys2Proof.Machine

/-! #### What a command can end with (R37, R40, R200) -/

section
variable {s u : State}

theorem controlKept_refl (s : State) : s.ControlKept s := ⟨rfl, rfl, rfl, rfl, rfl, rfl, rfl⟩

theorem controlKept_setSlot (d : SlotIx) (v : Slot) (h : s.ControlKept u) : s.ControlKept (u.setSlot d v) := h

theorem controlKept_setPair (d : PairIx) (v : Bytes64) (h : s.ControlKept u) : s.ControlKept (u.setPair d v) := h

theorem controlKept_setPoint (d : PointIx) (q : Point) (h : s.ControlKept u) : s.ControlKept (u.setPoint d q) := h

theorem controlKept_setZ0If (c : Bool) (h : s.ControlKept u) : s.ControlKept (u.setZ0If c) := h

theorem controlKept_setValid (v : Bool) (h : s.ControlKept u) : s.ControlKept (u.setValid v) := h

theorem controlKept_complete (e : ErrCode) (h : s.ControlKept u) : s.ControlKept (u.complete e) := h

theorem controlKept_openResult (s : State) (b : SlotIx) : s.ControlKept (openResult s b) := by
  rw [openResult_eq]
  exact controlKept_refl s

/-- The state a command's result holds, if it holds one, has the control part of the state the command ran in. -/
def ResultKeepsControl (s : State) (r : Except ErrCode State) : Prop := ∀ u, r = .ok u → s.ControlKept u

theorem resultKeepsControl_ok (h : s.ControlKept u) : ResultKeepsControl s (.ok u) := by
  rintro _ ⟨⟩
  exact h

theorem resultKeepsControl_error (e : ErrCode) : ResultKeepsControl s (.error e) := by
  rintro _ ⟨⟩

/-- Whatever is read or checked first, only the continuation writes. -/
theorem resultKeepsControl_bind {α : Type} {x : Except ErrCode α} {f : α → Except ErrCode State}
    (h : ∀ a, ResultKeepsControl s (f a)) : ResultKeepsControl s (x >>= f) := by
  intro u hu
  obtain ⟨a, -, ha⟩ := except_bind_ok hu
  exact h a u ha

theorem resultKeepsControl_ite {c : Prop} [Decidable c] {x y : Except ErrCode State} (hx : ResultKeepsControl s x)
    (hy : ResultKeepsControl s y) : ResultKeepsControl s (if c then x else y) := by
  split_ifs
  · exact hx
  · exact hy

theorem resultKeepsControl_setSlot (d : SlotIx) (v : Slot) : ResultKeepsControl s (.ok (s.setSlot d v)) :=
  resultKeepsControl_ok (controlKept_setSlot d v (controlKept_refl s))

theorem resultKeepsControl_setPoint (d : PointIx) (q : Point) : ResultKeepsControl s (.ok (s.setPoint d q)) :=
  resultKeepsControl_ok (controlKept_setPoint d q (controlKept_refl s))

theorem resultKeepsControl_signTo (d : PairIx) (h : Bytes64) (A : Slot) : ResultKeepsControl s (signTo s d h A) :=
  resultKeepsControl_ite (resultKeepsControl_ok (controlKept_setPair d _ (controlKept_refl s)))
    (resultKeepsControl_error _)

end

/-- Every command is the completion of a result with the control part it found: the checks come first, and the writes
are to slots, point registers, Z0, VALID, OUT_LEN and MSG. -/
theorem exec_finishes_keeping_control (i : Instr) (s : State) :
    ∃ r, exec i s = finish s r ∧ ResultKeepsControl s r := by
  have hs := controlKept_refl s
  cases i with
  | fadd d | fsub d | fmul d | fsq d | fneg d | fcanon d | sred d | smuladd d =>
    exact ⟨_, rfl, resultKeepsControl_setSlot d _⟩
  | finv d => exact ⟨_, rfl, resultKeepsControl_ok (controlKept_setZ0If _ (controlKept_setSlot d _ hs))⟩
  | fcswap d a b =>
    refine ⟨_, exec_fcswap d a b s, resultKeepsControl_ok ?_⟩
    split_ifs
    · exact controlKept_setSlot a _ (controlKept_setSlot d _ hs)
    · exact controlKept_setSlot a _ (controlKept_setSlot d _ hs)
  | penc d => exact ⟨_, rfl, resultKeepsControl_bind fun _ => resultKeepsControl_setSlot d _⟩
  | pdec d | pdecn d | pdbl d | pneg d | psmb d =>
    exact ⟨_, rfl, resultKeepsControl_bind fun _ => resultKeepsControl_setPoint d _⟩
  | padd d =>
    exact ⟨_, rfl, resultKeepsControl_bind fun _ => resultKeepsControl_bind fun _ => resultKeepsControl_setPoint d _⟩
  | pdsm d =>
    exact ⟨_, rfl, resultKeepsControl_bind fun _ => resultKeepsControl_bind fun _ => resultKeepsControl_bind fun _ =>
      resultKeepsControl_setPoint d _⟩
  | keypair d a b =>
    exact ⟨_, rfl, resultKeepsControl_ite (resultKeepsControl_error _)
      (resultKeepsControl_ok (controlKept_setSlot d _ (controlKept_setPair b _ hs)))⟩
  | signSeed d | signExp d | signKp d => exact ⟨_, rfl, resultKeepsControl_signTo d _ _⟩
  | verify =>
    exact ⟨_, rfl, resultKeepsControl_ite (resultKeepsControl_ok (controlKept_setValid _ hs))
      (resultKeepsControl_error _)⟩
  | openMsg b =>
    exact ⟨_, rfl, resultKeepsControl_ite (resultKeepsControl_ok (controlKept_openResult s b))
      (resultKeepsControl_error _)⟩

/-- A command ends OK with its writes, which leave the control part alone, or with a code and none of them. -/
theorem exec_next_cases {i : Instr} {s t : State} (hexec : exec i s = .next t) :
    (∃ u, s.ControlKept u ∧ t = u.complete .ok) ∨ ∃ e, t = s.complete e := by
  obtain ⟨r, hr, hkeep⟩ := exec_finishes_keeping_control i s
  obtain ⟨u, hu, ht⟩ | ⟨e, -, ht⟩ := finish_cases (hr.symm.trans hexec)
  · exact .inl ⟨u, hkeep u hu, ht⟩
  · exact .inr ⟨e, ht⟩

theorem exec_controlKept {i : Instr} {s t : State} (hexec : exec i s = .next t) : s.ControlKept t := by
  obtain ⟨u, hu, rfl⟩ | ⟨e, rfl⟩ := exec_next_cases hexec
  · exact controlKept_complete .ok hu
  · exact controlKept_complete e (controlKept_refl s)

theorem exec_done {i : Instr} {s t : State} (hexec : exec i s = .next t) : t.done = true := by
  obtain ⟨u, -, rfl⟩ | ⟨e, rfl⟩ := exec_next_cases hexec
  · exact State.complete_done u .ok
  · exact State.complete_done s e

/-! #### Failed commands (R200) -/

/-- Settles O8: a command that ends with its writes has ERR = OK, so this one ended as the state it ran in. -/
theorem failedCommandWritesNoDestination : Obligations.FailedCommandWritesNoDestination := by
  intro i s t hexec herr
  obtain ⟨u, -, rfl⟩ | ⟨e, rfl⟩ := exec_next_cases hexec
  · exact absurd (State.complete_err u .ok) herr
  · exact failsWith_complete s e

/-! #### The interrupt (R210) -/

theorem ctrlWord_bit2 (s : State) : s.ctrlWord.getLsbD 2 = s.ie := by
  rw [ctrlWord_eq_ite]
  cases s.ie <;> rfl

theorem statusWord_bit1 (s : State) : s.statusWord.getLsbD 1 = s.done := by
  rw [State.statusWord, BitVec.getLsbD_append, BitVec.getLsbD_append]
  exact BitVec.getLsbD_ofBool s.done 0

theorem irq_of_done {s : State} (h : s.done = true) : s.irq = s.ie := by
  rw [State.irq, h, Bool.and_true]

theorem irq_of_not_done {s : State} (h : s.done = false) : s.irq = false := by
  rw [State.irq, h, Bool.and_false]

/-- IRQ after a CTRL write (R33): SRST and CLR clear DONE, and otherwise the IE written meets the DONE that stands. -/
theorem irq_writeCtrl (s : State) (v : Word) :
    (s.writeCtrl v).irq = (!v.getLsbD 0 && !v.getLsbD 1 && v.getLsbD 2 && s.done) := by
  cases h0 : v.getLsbD 0 with
  | true =>
    rw [writeCtrl_of_srst s h0]
    exact irq_of_not_done (State.softReset_done s)
  | false =>
    cases h1 : v.getLsbD 1 with
    | true =>
      rw [writeCtrl_of_clr s h0 h1]
      exact irq_of_not_done (State.clearFlags_done s)
    | false =>
      rw [writeCtrl_of_neither s h0 h1]
      rfl

/-- Settles O27: a command sets DONE and keeps IE, acceptance and power-on clear DONE, and the two clauses on CTRL are
the cases of one formula for the write. -/
theorem interruptFollowsIeAndDone : Obligations.InterruptFollowsIeAndDone := by
  refine ⟨fun s => ?bits, fun i s t hexec => ?command, fun s v => ⟨?accept, ?powerOn⟩, fun s v hdrop => ?drop,
    fun s v h0 h1 h2 => ?raise⟩
  case bits => rw [ctrlWord_bit2, statusWord_bit1, State.irq]
  case command =>
    obtain ⟨-, -, -, hie, -⟩ := exec_controlKept hexec
    exact (irq_of_done (exec_done hexec)).trans hie
  case accept => exact irq_of_not_done (State.accept_done s v)
  case powerOn => exact irq_of_not_done (State.powerOn_done s)
  case drop =>
    rw [irq_writeCtrl]
    obtain h | h | h := hdrop <;> simp only [h, Bool.not_true, Bool.and_false, Bool.false_and]
  case raise => simp only [irq_writeCtrl, h0, h1, h2, Bool.not_false, Bool.true_and]

end Sys2Proof.Proofs
end

/-! ### Proofs: the soft reset (R231) -/

section
namespace Sys2Proof.Proofs
open Sys2Proof.Machine

/-- R231: the step on a CTRL write with SRST = 1 is the soft reset with an OKAY, whatever the engine does. -/
theorem step_wr_ctrl_of_srst {s : State} {v : Word} {es : List Event} (he : s.events = wr 0x008 v :: es)
    (h0 : v.getLsbD 0 = true) : step s = .next ((s.withEvents es).softReset.respond (.okay none)) :=
  step_wr_reg .ctrl he rfl rfl (congrArg some (writeCtrl_of_srst _ h0))

/-- Settles O14: the step is the soft reset, whose values R38 gives and which leaves MSG and the later events alone. -/
theorem softResetSetsTheSoftValues : Obligations.SoftResetSetsTheSoftValues := by
  intro s v es he h0
  exact ⟨_, step_wr_ctrl_of_srst he h0, softReset_hasResetValues (s.withEvents es), fun _ => rfl, rfl, rfl⟩

end Sys2Proof.Proofs
end

/-! ### Proofs: decoding and encoding are inverse (R80 to R87) -/

section
namespace Sys2Proof.Proofs
open Sys2Proof.Machine

/-! #### Decoding a packed word -/

@[simp] theorem ok_bind {α : Type} (x : α) (k : α → Except DecodeError Instr) : (Except.ok x >>= k) = k x := rfl

theorem decode_pack (op : BitVec 8) (d a b c : BitVec 4) : decode (pack op d a b c) = decodeOp op.toNat d a b c := by
  rw [decode_of_rsvField (rsvField_pack ..), opField_pack, dField_pack, aField_pack, bField_pack, cField_pack]

theorem decode_encode_keypair {d a : SlotIx} {b : PairIx} (h : keypairOverlap d b = false) :
    decode (encode (.keypair d a b)) = .ok (.keypair d a b) := by
  simp [encode, decode_pack, decodeOp, h, pure, Except.pure]

/-- Settles O1: each field of the packed word is read back as the operand it holds, and KEYPAIR's check passes on a
legal command. -/
theorem decodeOfEncodeIsTheCommand : Obligations.DecodeOfEncodeIsTheCommand := by
  intro i hwf
  cases i with
  | keypair d a b => exact decode_encode_keypair (by simpa [Instr.wf] using hwf)
  | _ => simp [encode, decode_pack, decodeOp, -bind_pure_comp]; rfl

/-! #### The command read from a word -/

theorem readSP_eq_ok_iff {f : BitVec 4} {h : PairIx} : readSP f = .ok h ↔ f = fieldSP h :=
  ⟨readSP_ok, by rintro rfl; exact readSP_fieldSP h⟩

theorem readPR_eq_ok_iff {f : BitVec 4} {j : PointIx} : readPR f = .ok j ↔ f = fieldPR j :=
  ⟨readPR_ok, by rintro rfl; exact readPR_fieldPR j⟩

/-- The command the decoder answers, if it answers one, is legal and has the word `w`. -/
def DecodesOnlyTo (w : Word) (r : Except DecodeError Instr) : Prop := ∀ i, r = .ok i → i.wf = true ∧ encode i = w

theorem bind_decodesOnlyTo_iff {α : Type} {w : Word} {r : Except DecodeError α} {k : α → Except DecodeError Instr} :
    DecodesOnlyTo w (r >>= k) ↔ ∀ x, r = .ok x → DecodesOnlyTo w (k x) := by
  cases r with
  | error e => simp [DecodesOnlyTo, bind, Except.bind]
  | ok x => simp

theorem pure_decodesOnlyTo_iff {w : Word} {i : Instr} : DecodesOnlyTo w (pure i) ↔ i.wf = true ∧ encode i = w := by
  simp [DecodesOnlyTo, pure, Except.pure]

theorem error_decodesOnlyTo (w : Word) (e : DecodeError) : DecodesOnlyTo w (.error e) := by
  rintro _ ⟨⟩

theorem decodeOp_decodesOnlyTo (op : Nat) (d a b c : BitVec 4) :
    DecodesOnlyTo (pack (BitVec.ofNat 8 op) d a b c) (decodeOp op d a b c) := by
  unfold decodeOp
  split
  case h_19 =>
    simp only [bind_decodesOnlyTo_iff, readZ_eq_ok_iff, readSP_eq_ok_iff]
    rintro h rfl - rfl
    cases hover : keypairOverlap (readS d) h with
    | true => exact error_decodesOnlyTo _ _
    | false => exact pure_decodesOnlyTo_iff.2 ⟨by simp [Instr.wf, hover], rfl⟩
  case h_25 => exact error_decodesOnlyTo _ _
  -- each bind gives one field as the encoding of the operand read from it, and the word is then the operands' own
  all_goals
    simp only [bind_decodesOnlyTo_iff, pure_decodesOnlyTo_iff, readZ_eq_ok_iff, readSP_eq_ok_iff, readPR_eq_ok_iff,
      OperandKind.Allows]
    intros
    subst_vars
    exact ⟨rfl, rfl⟩

/-- Settles O2: bits 31:24 of a word that decodes are 0, so it is its other fields packed. -/
theorem encodeOfDecodedWordIsTheWord : Obligations.EncodeOfDecodedWordIsTheWord := by
  intro w i h
  have hrsv : rsvField w = 0 := by
    by_contra hne
    rw [decode_of_rsvField_ne hne] at h
    cases h
  rw [decode_of_rsvField hrsv] at h
  have hword := decodeOp_decodesOnlyTo _ _ _ _ _ i h
  rwa [BitVec.ofNat_toNat, BitVec.setWidth_eq, ← eq_pack_of_rsv hrsv] at hword

/-! #### Words as the spec prints them -/

/-- Settles O57: a packed word is R87's formula of its fields, and each field has the value of its operand. -/
theorem encodingFollowsTheFormula : Obligations.EncodingFollowsTheFormula := by
  unfold Obligations.EncodingFollowsTheFormula
  simp only [encode, pack_toNat, fieldS_toNat, fieldSP_toNat, fieldPR_toNat]
  and_intros <;> intros <;> rfl

/-- Settles O4, by decoding the nine words. -/
theorem sampleWordsDecodeAsPrinted : Obligations.SampleWordsDecodeAsPrinted := by
  unfold Obligations.SampleWordsDecodeAsPrinted
  decide

end Sys2Proof.Proofs
end

/-! ### Proofs: who writes what, and the steps of the machine (R37, R50, R200, R245) -/

section
namespace Sys2Proof.Proofs
open Sys2Proof.Machine

/-! #### What each command writes when it ends OK -/

/-- The states a command can complete OK from, its writes applied (R9, R40): slots, one point register (with a point of
E where the registers hold points of E), and the results that only FINV, VERIFY and OPEN write. -/
inductive Writes (s : State) : Instr → State → Prop
  | slots (i : Instr) (v : Vector Slot 16) : Writes s i { s with slots := v }
  | point (i : Instr) (d : PointIx) (q : Point) (hq : s.PointsOnCurve → OnCurve q) : Writes s i (s.setPoint d q)
  | z0 (d a : SlotIx) (v : Slot) (c : Bool) : Writes s (.finv d a) ((s.setSlot d v).setZ0If c)
  | valid (a : PairIx) (b : SlotIx) (v : Bool) : Writes s (.verify a b) (s.setValid v)
  | openMsg (b : SlotIx) (h64 : 64 ≤ s.msgLen.toNat) (hle : s.msgLen.toNat ≤ s.params.msgSize) :
    Writes s (.openMsg b) (openResult s b)

theorem onCurve_smul {q : Point} (hq : OnCurve q) (k : Nat) : OnCurve (Point.smul k q) :=
  hq.smul k ▸ hq.multiple k

/-- Every command completes: OK with its writes, or with a code and none of them. -/
theorem exec_outcome (i : Instr) (s : State) :
    (∃ u, Writes s i u ∧ exec i s = .next (u.complete .ok)) ∨ ∃ e, exec i s = .next (s.complete e) := by
  cases i with
  | fadd | fsub | fmul | fsq | fneg | fcanon | sred | smuladd => exact .inl ⟨_, .slots _ _, rfl⟩
  | finv d a => exact .inl ⟨_, .z0 d a _ _, rfl⟩
  | fcswap d a b =>
    have hexec := exec_fcswap d a b s
    split_ifs at hexec
    · exact .inl ⟨_, .slots _ _, hexec⟩
    · exact .inl ⟨_, .slots _ _, hexec⟩
  | pdec d a =>
    cases hdec : pointDecode (s.slot a) with
    | ok q => exact .inl ⟨_, .point _ d q fun _ => onCurve_of_pointDecode hdec, exec_pdec_of_ok hdec⟩
    | error e => exact .inr ⟨e, exec_pdec_of_error hdec⟩
  | pdecn d a =>
    cases hdec : pointDecode (s.slot a) with
    | ok q => exact .inl ⟨_, .point _ d _ fun _ => (onCurve_of_pointDecode hdec).neg, exec_pdecn_of_ok hdec⟩
    | error e => exact .inr ⟨e, exec_pdecn_of_error hdec⟩
  | penc d a =>
    cases ha : s.point a with
    | some q => exact .inl ⟨_, .slots _ _, exec_penc_of_some ha⟩
    | none => exact .inr ⟨_, exec_penc_of_none ha⟩
  | padd d a b =>
    cases ha : s.point a with
    | none => exact .inr ⟨_, exec_padd_of_none (.inl ha)⟩
    | some q =>
      cases hb : s.point b with
      | none => exact .inr ⟨_, exec_padd_of_none (.inr hb)⟩
      | some r => exact .inl ⟨_, .point _ d _ fun hs => (hs a q ha).add (hs b r hb), exec_padd_of_some ha hb⟩
  | pdbl d a =>
    cases ha : s.point a with
    | some q => exact .inl ⟨_, .point _ d _ fun hs => (hs a q ha).add (hs a q ha), exec_pdbl_of_some ha⟩
    | none => exact .inr ⟨_, exec_pdbl_of_none ha⟩
  | pneg d a =>
    cases ha : s.point a with
    | some q => exact .inl ⟨_, .point _ d _ fun hs => (hs a q ha).neg, exec_pneg_of_some ha⟩
    | none => exact .inr ⟨_, exec_pneg_of_none ha⟩
  | psmb d a =>
    obtain hk | hk := Nat.lt_or_ge (s.scalarOf a) (2 ^ 255)
    · exact .inl ⟨_, .point _ d _ fun _ => onCurve_smul onCurve_basePoint _, exec_psmb_of_lt hk⟩
    · exact .inr ⟨_, exec_psmb_of_le hk⟩
  | pdsm d a b c =>
    cases hb : s.point b with
    | none => exact .inr ⟨_, exec_pdsm_of_none hb⟩
    | some q =>
      by_cases hk : s.scalarOf a < 2 ^ 255 ∧ s.scalarOf c < 2 ^ 255
      · exact .inl ⟨_, .point _ d _ fun hs => (onCurve_smul (hs b q hb) _).add (onCurve_smul onCurve_basePoint _),
          exec_pdsm_of_lt hb hk.1 hk.2⟩
      · exact .inr ⟨_, exec_pdsm_of_le hb (by omega)⟩
  | keypair d a b =>
    by_cases hd : d = b.low ∨ d = b.high
    · exact .inr ⟨_, exec_keypair_of_overlap s hd⟩
    · obtain ⟨hlow, hhigh⟩ := not_or.1 hd
      exact .inl ⟨_, .slots _ _, exec_keypair_of_ne hlow hhigh⟩
  | signSeed d a =>
    obtain hl | hl := Nat.lt_or_ge s.params.msgSize s.msgLen.toNat
    · exact .inr ⟨_, exec_signSeed_of_lt hl⟩
    · exact .inl ⟨_, .slots _ _, exec_signSeed_of_le hl⟩
  | signExp d a =>
    obtain hl | hl := Nat.lt_or_ge s.params.msgSize s.msgLen.toNat
    · exact .inr ⟨_, exec_signExp_of_lt hl⟩
    · exact .inl ⟨_, .slots _ _, exec_signExp_of_le hl⟩
  | signKp d a b =>
    obtain hl | hl := Nat.lt_or_ge s.params.msgSize s.msgLen.toNat
    · exact .inr ⟨_, exec_signKp_of_lt hl⟩
    · exact .inl ⟨_, .slots _ _, exec_signKp_of_le hl⟩
  | verify a b =>
    obtain hl | hl := Nat.lt_or_ge s.params.msgSize s.msgLen.toNat
    · exact .inr ⟨_, exec_verify_of_lt hl⟩
    · exact .inl ⟨_, .valid a b _, exec_verify_of_le hl⟩
  | openMsg b =>
    by_cases hl : 64 ≤ s.msgLen.toNat ∧ s.msgLen.toNat ≤ s.params.msgSize
    · exact .inl ⟨_, .openMsg b hl.1 hl.2, exec_open_of_le hl.1 hl.2⟩
    · exact .inr ⟨_, exec_open_of_lt (by omega)⟩

theorem Writes.controlKept {s u : State} {i : Instr} (h : Writes s i u) : s.ControlKept u := by
  cases h with
  | slots | point | z0 | valid => exact controlKept_refl s
  | openMsg b => exact controlKept_openResult s b

/-- Who writes OUT_LEN, MSG, VALID and Z0 (R35, R40, R68). -/
theorem Writes.results {s u : State} {i : Instr} (h : Writes s i u) :
    ((∃ b, i = .openMsg b) ∨ (u.outLen = s.outLen ∧ s.MsgKept u)) ∧
    ((∃ b, i = .openMsg b) ∨ (∃ a b, i = .verify a b) ∨ u.valid = s.valid) ∧
    ((∃ d a, i = .finv d a ∧ (u.z0 = s.z0 ∨ u.z0 = true)) ∨ u.z0 = s.z0) := by
  cases h with
  | slots | point => exact ⟨.inr ⟨rfl, fun _ => rfl⟩, .inr (.inr rfl), .inr rfl⟩
  | z0 d a v c =>
    refine ⟨.inr ⟨rfl, fun _ => rfl⟩, .inr (.inr rfl), .inl ⟨d, a, rfl, ?_⟩⟩
    rw [State.setZ0If_z0, State.setSlot_z0]
    cases c with
    | true => exact .inr (Bool.or_true _)
    | false => exact .inl (Bool.or_false _)
  | valid a b => exact ⟨.inr ⟨rfl, fun _ => rfl⟩, .inr (.inl ⟨a, b, rfl⟩), .inr rfl⟩
  | openMsg b =>
    refine ⟨.inl ⟨b, rfl⟩, .inl ⟨b, rfl⟩, .inr ?_⟩
    rw [openResult_eq]

/-- Settles O9: every command ends in one of the two outcomes, and the second writes no result at all. -/
theorem onlyTheNamedCommandsWriteEachResult : Obligations.OnlyTheNamedCommandsWriteEachResult := by
  intro i s
  obtain ⟨u, hu, hexec⟩ | ⟨e, hexec⟩ := exec_outcome i s
  · exact ⟨_, hexec, exec_controlKept hexec, ⟨rfl, rfl, rfl⟩, hu.results⟩
  · exact ⟨_, hexec, exec_controlKept hexec, ⟨rfl, rfl, rfl⟩, .inr ⟨rfl, fun _ => rfl⟩, .inr (.inr rfl), .inr rfl⟩

/-! #### The engine's step (R37, R50) -/

theorem engineStep_of_idle {s : State} (h : s.engine = .idle) : engineStep s = .next s := by
  simp only [engineStep, h]

theorem engineStep_of_decode {s : State} {w : Word} {i : Instr} (hb : s.engine = .busy w) (hd : decode w = .ok i) :
    engineStep s = exec i s := by
  simp only [engineStep, hb, hd]

/-- Settles O5: the engine's turn is the engine's step, which runs the decoded command. -/
theorem stepRunsTheDecodedCommand : Obligations.StepRunsTheDecodedCommand := by
  intro s u w i hturn hbusy hdec
  rw [step_of_engineTurn hturn, engineStep_of_decode ((engine_of_engineTurn hturn).trans hbusy) hdec]

/-- The engine rests if it is IDLE; if it is BUSY it completes a command of the word, or ends with a code (R200, R202). -/
theorem engineStep_outcome (s : State) :
    (s.engine = .idle ∧ engineStep s = .next s) ∨
    (∃ w, s.engine = .busy w ∧
      ((∃ i u, Writes s i u ∧ engineStep s = .next (u.complete .ok)) ∨
        ∃ e, engineStep s = .next (s.complete e))) := by
  cases hb : s.engine with
  | idle => exact .inl ⟨rfl, engineStep_of_idle hb⟩
  | busy w =>
    refine .inr ⟨w, rfl, ?_⟩
    cases hdec : decode w with
    | error e => exact .inr ⟨_, engineStep_of_decode_ne_ok hb (by simp [hdec])⟩
    | ok i =>
      rw [engineStep_of_decode hb hdec]
      obtain ⟨u, hu, hexec⟩ | h := exec_outcome i s
      · exact .inl ⟨i, u, hu, hexec⟩
      · exact .inr h

/-- A BUSY engine completes (R37). -/
theorem engineStep_completes {s : State} {w : Word} (hb : s.engine = .busy w) :
    ∃ t, engineStep s = .next t ∧ t.engine = .idle ∧ t.done = true ∧ t.cmd = s.cmd := by
  obtain ⟨hidle, -⟩ | ⟨-, -, ⟨i, u, hu, hstep⟩ | ⟨e, hstep⟩⟩ := engineStep_outcome s
  · rw [hb] at hidle; cases hidle
  · obtain ⟨-, hcmd, -⟩ := hu.controlKept
    exact ⟨_, hstep, rfl, rfl, hcmd⟩
  · exact ⟨_, hstep, rfl, rfl, rfl⟩

/-- A step is a bus access, a power-on, or the engine's step on its turn (R50, R63). -/
theorem step_cases (s : State) :
    (∃ a es, s.events = .bus a :: es ∧ step s = .next ((s.withEvents es).busAccess a)) ∨
    (∃ es, s.events = .powerOn :: es ∧ step s = .next (s.withEvents es).powerOn) ∨
    ∃ u, s.EngineTurn u ∧ step s = engineStep u := by
  cases he : s.events with
  | nil => exact .inr (.inr ⟨s, .inl ⟨he, rfl⟩, step_of_engineTurn (.inl ⟨he, rfl⟩)⟩)
  | cons e es =>
    cases e with
    | bus a => exact .inl ⟨a, es, rfl, step_of_busAccess he rfl⟩
    | powerOn => exact .inr (.inl ⟨es, rfl, by simp only [step, he]⟩)
    | engine => exact .inr (.inr ⟨_, .inr ⟨es, he, rfl⟩, step_of_engineTurn (.inr ⟨es, he, rfl⟩)⟩)

/-- Settles O7: the engine's step answers in every engine state, and the other two kinds of step always do. -/
theorem everyStepAnswersANextState : Obligations.EveryStepAnswersANextState := by
  intro s
  obtain ⟨a, es, -, hstep⟩ | ⟨es, -, hstep⟩ | ⟨u, -, hstep⟩ := step_cases s
  · exact ⟨_, hstep⟩
  · exact ⟨_, hstep⟩
  · rw [hstep]
    obtain ⟨-, h⟩ | ⟨-, -, ⟨i, v, -, h⟩ | ⟨e, h⟩⟩ := engineStep_outcome u
    · exact ⟨_, h⟩
    · exact ⟨_, h⟩
    · exact ⟨_, h⟩

end Sys2Proof.Proofs
end

/-! ### Proofs: reset values and the invariants (R6, R24, R30, R38, R230) -/

section
namespace Sys2Proof.Proofs
open Sys2Proof.Machine

/-! #### Reset (R38, R230) -/

theorem resetWith_hasResetValues (p : Params) : (State.resetWith p).HasResetValues p := by
  refine ⟨rfl, rfl, ?_, ctrlWord_eq_ite _, rfl, rfl, State.resetWith_slot p, State.resetWith_point p, rfl, rfl⟩
  exact softReset_statusWord (State.resetWith p)

/-- Settles O12: the reset state is the power-on state of the default parameters. -/
theorem resetStateHasThePowerOnValues : Obligations.ResetStateHasThePowerOnValues :=
  ⟨resetWith_hasResetValues Params.default, fun _ => rfl⟩

/-- Settles O13: power-on differs from the reset state in the parameters, the power-on count and the events only. -/
theorem powerOnSetsThePowerOnValues : Obligations.PowerOnSetsThePowerOnValues := by
  intro s es he
  have hstep : step s = .next (s.withEvents es).powerOn := by simp only [step, he]
  exact ⟨_, hstep, resetWith_hasResetValues s.params, fun _ => rfl, rfl⟩

/-! #### The housekeeping invariant -/

/-- What the invariant says of an IDLE state. -/
theorem inv_of_idle {s : State} (hp : s.params.Ok) (hm : s.msg.wf s.params.msgSize) (hidle : s.engine = .idle)
    (hv : s.valid = true → s.err = .ok) (ho : s.outLen.toNat + 64 ≤ s.params.msgSize) : s.Inv :=
  ⟨hp, hm, fun _ hw => absurd (hidle.symm.trans hw) nofun, hv, ho⟩

theorem inv_softReset {s : State} (h : s.Inv) : s.softReset.Inv := by
  obtain ⟨-, h64, -⟩ := h.params
  exact inv_of_idle h.params h.msg rfl nofun (by simpa using h64)

theorem inv_powerOn {s : State} (h : s.Inv) : s.powerOn.Inv := by
  obtain ⟨-, h64, -⟩ := h.params
  exact inv_of_idle h.params (Memory.wf_empty _ _) rfl nofun (by simpa using h64)

theorem inv_withEvents {s : State} (es : List Event) (h : s.Inv) : (s.withEvents es).Inv :=
  ⟨h.params, h.msg, h.busy, h.valid, h.outLen⟩

theorem inv_respond {s : State} (r : BusResponse) (h : s.Inv) : (s.respond r).Inv :=
  ⟨h.params, h.msg, h.busy, h.valid, h.outLen⟩

theorem inv_accept {s : State} (w : Word) (h : s.Inv) : (s.accept w).Inv := by
  refine ⟨h.params, h.msg, fun v hv => ?_, nofun, h.outLen⟩
  injection hv with hv
  exact ⟨hv, rfl, rfl, rfl⟩

theorem inv_writeCmd {s : State} (v : Word) (h : s.Inv) : (s.writeCmd v).Inv := by
  cases hb : s.engine with
  | idle =>
    rw [writeCmd_of_idle v hb]
    exact inv_accept v h
  | busy w =>
    rw [writeCmd_of_busy v ((State.busy_iff s).2 ⟨w, hb⟩)]
    exact ⟨h.params, h.msg, h.busy, h.valid, h.outLen⟩

theorem inv_writeCtrl {s : State} (v : Word) (h : s.Inv) : (s.writeCtrl v).Inv := by
  cases h0 : v.getLsbD 0 with
  | true =>
    rw [writeCtrl_of_srst s h0]
    exact inv_softReset h
  | false =>
    cases h1 : v.getLsbD 1 with
    | true =>
      rw [writeCtrl_of_clr s h0 h1]
      refine ⟨h.params, h.msg, fun w hw => ?_, h.valid, h.outLen⟩
      obtain ⟨hcmd, -, herr, hvalid⟩ := h.busy w hw
      exact ⟨hcmd, rfl, herr, hvalid⟩
    | false =>
      rw [writeCtrl_of_neither s h0 h1]
      exact ⟨h.params, h.msg, h.busy, h.valid, h.outLen⟩

theorem inv_busAccess {s : State} (a : BusAccess) (h : s.Inv) : (s.busAccess a).Inv := by
  obtain ⟨r, hr⟩ | ⟨v, t, -, ht, hr⟩ := busAccess_cases s a
  · exact hr ▸ inv_respond r h
  · refine hr ▸ inv_respond _ ?_
    obtain rfl | rfl | ⟨-, -, rfl⟩ | ⟨-, rfl⟩ | ⟨-, i, m, -, rfl⟩ | ⟨-, n, hn, rfl⟩ := busWrite?_cases ht
    · exact h
    · exact inv_writeCmd v h
    · exact inv_writeCtrl v h
    · exact ⟨h.params, h.msg, h.busy, h.valid, h.outLen⟩
    · exact ⟨h.params, h.msg, h.busy, h.valid, h.outLen⟩
    · exact ⟨h.params, Memory.wf_writeWord h.msg (msgWord_inside h.params hn), h.busy, h.valid, h.outLen⟩

/-- OPEN keeps MSG in form and OUT_LEN in bounds: MSG_LEN is between 64 and MSG_SIZE where it writes them (R186). -/
theorem openResult_bounds {s : State} (b : SlotIx) (h : s.Inv) (h64 : 64 ≤ s.msgLen.toNat)
    (hle : s.msgLen.toNat ≤ s.params.msgSize) :
    (openResult s b).msg.wf s.params.msgSize ∧ (openResult s b).outLen.toNat + 64 ≤ s.params.msgSize := by
  cases hv : openVerifies s b with
  | true =>
    rw [openResult_of_verifies hv]
    refine ⟨h.msg, ?_⟩
    show (BitVec.ofNat 32 (s.msgLen.toNat - 64)).toNat + 64 ≤ s.params.msgSize
    rw [toNat_ofNat_toNat_sub]
    omega
  | false =>
    rw [openResult_of_not_verifies hv]
    exact ⟨Memory.wf_memWrite h.msg (by simpa using hle), h64.trans hle⟩

theorem Writes.bounds {s u : State} {i : Instr} (hu : Writes s i u) (h : s.Inv) :
    u.msg.wf s.params.msgSize ∧ u.outLen.toNat + 64 ≤ s.params.msgSize := by
  cases hu with
  | slots | point | z0 | valid => exact ⟨h.msg, h.outLen⟩
  | openMsg b h64 hle => exact openResult_bounds b h h64 hle

/-- A BUSY engine has VALID = 0, so a code leaves it so; VALID is set only with ERR = OK. -/
theorem inv_engineStep {s t : State} (h : s.Inv) (hstep : engineStep s = .next t) : t.Inv := by
  obtain ⟨-, hn⟩ | ⟨_, hb, ⟨i, u, hu, hn⟩ | ⟨e, hn⟩⟩ := engineStep_outcome s <;>
    obtain rfl := Host.Outcome.next.inj (hstep.symm.trans hn)
  · exact h
  · obtain ⟨hparams, -⟩ := hu.controlKept
    obtain ⟨hmsg, hout⟩ := hu.bounds h
    rw [← hparams] at hmsg hout
    exact inv_of_idle (hparams ▸ h.params) hmsg rfl (fun _ => rfl) hout
  · obtain ⟨-, -, -, hvalid⟩ := h.busy _ hb
    exact inv_of_idle h.params h.msg rfl (fun hv => absurd (hvalid.symm.trans hv) nofun) h.outLen

/-- Every predicate that the three kinds of step keep is kept by every step (R50, R63). -/
theorem step_keeps {P : State → Prop} (hevents : ∀ s es, P s → P (s.withEvents es))
    (hbus : ∀ s a, P s → P (s.busAccess a)) (hpower : ∀ s, P s → P s.powerOn)
    (hengine : ∀ s t, P s → engineStep s = .next t → P t) {s t : State} (h : P s) (hstep : step s = .next t) : P t := by
  obtain ⟨a, es, -, hn⟩ | ⟨es, -, hn⟩ | ⟨u, hturn, hn⟩ := step_cases s
  · exact Host.Outcome.next.inj (hn.symm.trans hstep) ▸ hbus _ a (hevents s es h)
  · exact Host.Outcome.next.inj (hn.symm.trans hstep) ▸ hpower _ (hevents s es h)
  · refine hengine u t ?_ (hn.symm.trans hstep)
    obtain ⟨-, rfl⟩ | ⟨es, -, rfl⟩ := hturn
    · exact h
    · exact hevents s es h

/-- Settles O28: bus accesses, power-on and the engine's step each keep the invariant. -/
theorem stepKeepsTheInvariant : Obligations.StepKeepsTheInvariant := fun _ _ =>
  step_keeps (P := State.Inv) (fun _ es => inv_withEvents es) (fun _ a => inv_busAccess a) (fun _ => inv_powerOn)
    fun _ _ => inv_engineStep

/-! #### Valid point registers hold points of E (R24) -/

theorem pointsOnCurve_of_none {s : State} (h : ∀ j, s.point j = none) : s.PointsOnCurve := by
  intro j q hq
  rw [h j] at hq
  cases hq

theorem pointsOnCurve_writeCmd {s : State} (v : Word) (h : s.PointsOnCurve) : (s.writeCmd v).PointsOnCurve := by
  unfold State.writeCmd
  split_ifs
  · exact h
  · exact h

theorem pointsOnCurve_writeCtrl {s : State} (v : Word) (h : s.PointsOnCurve) : (s.writeCtrl v).PointsOnCurve := by
  unfold State.writeCtrl
  split_ifs
  · exact pointsOnCurve_of_none (State.softReset_point s)
  · exact h
  · exact h

theorem pointsOnCurve_busAccess {s : State} (a : BusAccess) (h : s.PointsOnCurve) : (s.busAccess a).PointsOnCurve := by
  obtain ⟨r, hr⟩ | ⟨v, t, -, ht, hr⟩ := busAccess_cases s a <;> rw [hr]
  · exact h
  · obtain rfl | rfl | ⟨-, -, rfl⟩ | ⟨-, rfl⟩ | ⟨-, i, m, -, rfl⟩ | ⟨-, n, -, rfl⟩ := busWrite?_cases ht
    · exact h
    · exact pointsOnCurve_writeCmd v h
    · exact pointsOnCurve_writeCtrl v h
    · exact h
    · exact h
    · exact h

theorem pointsOnCurve_setPoint {s : State} (d : PointIx) {q : Point} (hq : OnCurve q) (h : s.PointsOnCurve) :
    (s.setPoint d q).PointsOnCurve := by
  intro j r hr
  rw [State.point_setPoint] at hr
  split_ifs at hr
  · exact Option.some.inj hr ▸ hq
  · exact h j r hr

theorem Writes.pointsOnCurve {s u : State} {i : Instr} (hu : Writes s i u) (h : s.PointsOnCurve) : u.PointsOnCurve := by
  cases hu with
  | slots | z0 | valid => exact h
  | point i d q hq => exact pointsOnCurve_setPoint d (hq h) h
  | openMsg b =>
    rw [openResult_eq]
    exact h

theorem pointsOnCurve_engineStep {s t : State} (h : s.PointsOnCurve) (hstep : engineStep s = .next t) :
    t.PointsOnCurve := by
  obtain ⟨-, hn⟩ | ⟨-, -, ⟨i, u, hu, hn⟩ | ⟨e, hn⟩⟩ := engineStep_outcome s <;>
    obtain rfl := Host.Outcome.next.inj (hstep.symm.trans hn)
  · exact h
  · exact hu.pointsOnCurve h
  · exact h

/-- Settles O31: only a command writes a point register, and it writes a point of E; both resets invalidate them all. -/
theorem stepKeepsPointRegistersOnTheCurve : Obligations.StepKeepsPointRegistersOnTheCurve := fun _ _ =>
  step_keeps (P := State.PointsOnCurve) (fun _ _ h => h) (fun _ a => pointsOnCurve_busAccess a)
    (fun s _ => pointsOnCurve_of_none (State.powerOn_point s)) fun _ _ => pointsOnCurve_engineStep

/-- Settles O30: the engine is IDLE, no message byte is written, and no point register is valid. -/
theorem resetMeetsTheInvariants : Obligations.ResetMeetsTheInvariants :=
  ⟨inv_of_idle (by decide) (Memory.wf_empty _ _) rfl nofun (by decide), pointsOnCurve_of_none (State.resetWith_point _)⟩

end Sys2Proof.Proofs
end

/-! ### Proofs: what the bus cannot do to a running command, and what drops a flag (R30, R37, R60, R245) -/

section
namespace Sys2Proof.Proofs
open Sys2Proof.Machine

/-! #### Accesses while BUSY (R37, R60, R66) -/

theorem resets_of_srst {a : BusAccess} {v : Word} (hop : a.op = .write v) (hs : a.supported = true)
    (haddr : a.addr = 0x008) : (Event.bus a).resets = v.getLsbD 0 := by
  simp [Event.resets, hop, hs, haddr]

/-- A write that gets an OKAY while BUSY, other than the soft reset: a CMD write sets OVF, a CTRL write without SRST
changes flags, and the rest is locked out or ignored. -/
theorem busWrite?_of_busy {s t : State} {a : BusAccess} {v : Word} (hb : s.busy = true) (hop : a.op = .write v)
    (hreset : (Event.bus a).resets = false) (ht : s.busWrite? a v = some t) :
    t.engine = s.engine ∧ t.cmd = s.cmd ∧ t.events = s.events ∧ s.OperandsKept t := by
  obtain rfl | rfl | ⟨hs, haddr, rfl⟩ | ⟨hidle, -⟩ | ⟨hidle, -⟩ | ⟨hidle, -⟩ := busWrite?_cases ht
  · exact ⟨rfl, rfl, rfl, rfl, rfl, rfl, rfl, rfl⟩
  · rw [writeCmd_of_busy v hb]
    exact ⟨rfl, rfl, rfl, rfl, rfl, rfl, rfl, rfl⟩
  · rw [resets_of_srst hop hs haddr] at hreset
    cases h1 : v.getLsbD 1 with
    | true =>
      rw [writeCtrl_of_clr s hreset h1]
      exact ⟨rfl, rfl, rfl, rfl, rfl, rfl, rfl, rfl⟩
    | false =>
      rw [writeCtrl_of_neither s hreset h1]
      exact ⟨rfl, rfl, rfl, rfl, rfl, rfl, rfl, rfl⟩
  · exact absurd (hb.symm.trans hidle) nofun
  · exact absurd (hb.symm.trans hidle) nofun
  · exact absurd (hb.symm.trans hidle) nofun

/-- Settles O10: an access records its response, after a write that keeps the operands or after none. -/
theorem busAccessesWhileBusyKeepTheOperands : Obligations.BusAccessesWhileBusyKeepTheOperands := by
  intro s w a es hb he hreset
  refine ⟨_, step_of_busAccess he rfl, ?_⟩
  obtain ⟨r, hr⟩ | ⟨v, t, hop, ht, hr⟩ := busAccess_cases (s.withEvents es) a <;> rw [hr]
  · exact ⟨hb, rfl, rfl, rfl, rfl, rfl, rfl, rfl⟩
  · have hbusy : (s.withEvents es).busy = true := (State.busy_iff _).2 ⟨w, hb⟩
    obtain ⟨hengine, hcmd, hevents, hkept⟩ := busWrite?_of_busy hbusy hop hreset ht
    exact ⟨hengine.trans hb, hcmd, hevents, hkept⟩

/-! #### Completion (R245) -/

theorem reaches_one {s t : State} (h : step s = .next t) : s.Reaches 1 t := by
  have h' : Sys2Proof.core.step s = .next t := h
  simp only [State.Reaches, Host.Core.run, h']

theorem reaches_succ {s t u : State} {k : Nat} (h : step s = .next t) (hk : t.Reaches k u) : s.Reaches (k + 1) u := by
  have h' : Sys2Proof.core.step s = .next t := h
  simp only [State.Reaches, Host.Core.run, h']
  exact hk

/-- Settles O11, by induction on the events: an access leaves the engine BUSY with one event less, and the engine's
entry, or the end of the list, completes the command. -/
theorem busyEngineCompletesUnlessReset : Obligations.BusyEngineCompletesUnlessReset := by
  intro s w hb hevents
  generalize hes : s.events = es at hevents
  induction es generalizing s with
  | nil =>
    obtain ⟨t, hstep, hdone⟩ := engineStep_completes hb
    exact ⟨1, t, le_rfl, reaches_one ((step_of_engineTurn (.inl ⟨hes, rfl⟩)).trans hstep), hdone⟩
  | cons e es ih =>
    obtain ⟨hreset, hrest⟩ := List.forall_mem_cons.1 hevents
    cases e with
    | powerOn => cases hreset
    | engine =>
      obtain ⟨t, hstep, hdone⟩ := engineStep_completes (s := s.withEvents es) hb
      exact ⟨1, t, by simp, reaches_one ((step_of_engineTurn (.inr ⟨es, hes, rfl⟩)).trans hstep), hdone⟩
    | bus a =>
      obtain ⟨t, hstep, hbusy, hcmd, hevents', -⟩ := busAccessesWhileBusyKeepTheOperands s w a es hb hes hreset
      obtain ⟨k, u, hk, hreach, hidle, hdone, hcmd'⟩ := ih t hbusy hevents' hrest
      exact ⟨k + 1, u, Nat.succ_le_succ hk, reaches_succ hstep hreach, hidle, hdone, hcmd'.trans hcmd⟩

/-! #### Sticky flags (R30) -/

/-- The byte address of each register (R28). -/
def Reg.addr : Reg → Addr
  | .cmd => 0x000
  | .status => 0x004
  | .ctrl => 0x008
  | .msgLen => 0x00C
  | .outLen => 0x010
  | .id => 0x014
  | .param => 0x018

theorem regAt_eq_some {k : Nat} {r : Reg} (h : regAt k = some r) : 4 * k = (Reg.addr r).toNat := by
  match k with
  | 0 | 1 | 2 | 3 | 4 | 5 | 6 => cases h; rfl
  | k + 7 => cases h

/-- An aligned access that reaches a register is at the register's address. -/
theorem addr_of_reg {p : Params} {a : BusAccess} {r : Reg} (h : targetOf p a.addr = .reg r) (hs : a.supported = true) :
    a.addr = Reg.addr r := by
  have hr : regAt (a.addr.toNat / 4) = some r := by
    simp only [targetOf] at h
    split at h
    · rename_i r' hr'
      injection h with h
      rw [hr', h]
    · split_ifs at h
  simp only [BusAccess.supported, Bool.and_eq_true, beq_iff_eq] at hs
  have := regAt_eq_some hr
  apply BitVec.eq_of_toNat_eq
  omega

/-- A write with an effect on a register is the host's full-word write to it; the other writes keep all three flags. -/
theorem busWrite?_reg_or_keeps {s t : State} {a : BusAccess} {v : Word} (hop : a.op = .write v)
    (ht : s.busWrite? a v = some t) :
    (∃ r, Event.bus a = wr (Reg.addr r) v ∧ s.writeReg r v = some t) ∨
      (t.z0 = s.z0 ∧ t.ovf = s.ovf ∧ t.done = s.done) := by
  unfold State.busWrite? at ht
  split at ht
  · cases ht
  · rename_i r hr
    split_ifs at ht with hs
    refine .inl ⟨r, ?_, ht⟩
    have haddr := addr_of_reg hr hs
    obtain ⟨addr, strobes, op⟩ := a
    obtain ⟨-, hstrobes⟩ : addr.toNat % 4 = 0 ∧ strobes = 0xF := by simpa [BusAccess.supported] using hs
    simp only at haddr hop
    rw [wr, haddr, hstrobes, hop]
  · split_ifs at ht
    cases ht
    exact .inr ⟨rfl, rfl, rfl⟩
  · split_ifs at ht
    cases ht
    exact .inr ⟨rfl, rfl, rfl⟩

theorem resets_wr_ctrl (v : Word) : (wr 0x008 v).resets = v.getLsbD 0 := by
  simp [wr, Event.resets, BusAccess.supported]

/-- What a step may do to the sticky flags, `e` being the event it takes: CTRL.CLR and the resets may drop any of them,
acceptance only DONE, and nothing else drops one. -/
def StickyStep (s t : State) (e : Event) : Prop :=
  e.resets = true ∨ (∃ v, e = wr 0x008 v ∧ v.getLsbD 1 = true) ∨
    ((s.z0 = true → t.z0 = true) ∧ (s.ovf = true → t.ovf = true) ∧
      ((s.done = true → t.done = true) ∨ ∃ v, e = wr 0x000 v ∧ s.engine = .idle))

theorem stickyStep_writeReg {s t : State} {r : Reg} {v : Word} (ht : s.writeReg r v = some t) :
    StickyStep s t (wr (Reg.addr r) v) := by
  cases r with
  | status | outLen | id | param =>
    cases ht
    exact .inr (.inr ⟨id, id, .inl id⟩)
  | msgLen =>
    simp only [State.writeReg] at ht
    split_ifs at ht
    cases ht
    exact .inr (.inr ⟨id, id, .inl id⟩)
  | cmd =>
    cases ht
    cases hb : s.engine with
    | idle =>
      rw [writeCmd_of_idle v hb]
      exact .inr (.inr ⟨id, id, .inr ⟨v, rfl, hb⟩⟩)
    | busy w =>
      rw [writeCmd_of_busy v ((State.busy_iff s).2 ⟨w, hb⟩)]
      exact .inr (.inr ⟨id, fun _ => rfl, .inl id⟩)
  | ctrl =>
    cases ht
    cases h0 : v.getLsbD 0 with
    | true => exact .inl ((resets_wr_ctrl v).trans h0)
    | false =>
      cases h1 : v.getLsbD 1 with
      | true => exact .inr (.inl ⟨v, rfl, h1⟩)
      | false =>
        rw [writeCtrl_of_neither s h0 h1]
        exact .inr (.inr ⟨id, id, .inl id⟩)

theorem stickyStep_busAccess (s : State) (a : BusAccess) : StickyStep s (s.busAccess a) (.bus a) := by
  obtain ⟨r, hr⟩ | ⟨v, t, hop, ht, hr⟩ := busAccess_cases s a <;> rw [hr]
  · exact .inr (.inr ⟨id, id, .inl id⟩)
  · obtain ⟨r, ha, ht⟩ | ⟨hz0, hovf, hdone⟩ := busWrite?_reg_or_keeps hop ht
    · exact (ha ▸ stickyStep_writeReg ht : StickyStep s t (.bus a))
    · exact .inr (.inr ⟨hz0.trans, hovf.trans, .inl hdone.trans⟩)

/-- The engine's step drops no flag: a command keeps OVF, sets DONE, and writes Z0 only to 1 (R40). -/
theorem engineStep_keeps_flags {s t : State} (hstep : engineStep s = .next t) :
    (s.z0 = true → t.z0 = true) ∧ (s.ovf = true → t.ovf = true) ∧ (s.done = true → t.done = true) := by
  obtain ⟨-, hn⟩ | ⟨-, -, ⟨i, u, hu, hn⟩ | ⟨e, hn⟩⟩ := engineStep_outcome s <;>
    obtain rfl := Host.Outcome.next.inj (hstep.symm.trans hn)
  · exact ⟨id, id, id⟩
  · obtain ⟨-, -, hovf, -⟩ := hu.controlKept
    obtain ⟨-, -, hz0⟩ := hu.results
    refine ⟨fun h => ?_, hovf.trans, fun _ => rfl⟩
    obtain ⟨-, -, -, hz0 | hz0⟩ | hz0 := hz0
    · exact hz0.trans h
    · exact hz0
    · exact hz0.trans h
  · exact ⟨id, id, fun _ => rfl⟩

/-- A step that drops a sticky flag takes an event that may. -/
theorem step_sticky {s t : State} (hstep : step s = .next t) :
    (∃ e es, s.events = e :: es ∧ StickyStep s t e) ∨
      ((s.z0 = true → t.z0 = true) ∧ (s.ovf = true → t.ovf = true) ∧ (s.done = true → t.done = true)) := by
  obtain ⟨a, es, he, hn⟩ | ⟨es, he, hn⟩ | ⟨u, hturn, hn⟩ := step_cases s
  · obtain rfl := Host.Outcome.next.inj (hn.symm.trans hstep)
    exact .inl ⟨_, es, he, stickyStep_busAccess (s.withEvents es) a⟩
  · exact .inl ⟨_, es, he, .inl rfl⟩
  · have hkeep := engineStep_keeps_flags (hn.symm.trans hstep)
    obtain ⟨-, rfl⟩ | ⟨es, -, rfl⟩ := hturn
    · exact .inr hkeep
    · exact .inr hkeep

theorem not_dropped {b c : Bool} (h : b = true → c = true) : ¬ (b = true ∧ c = false) :=
  fun ⟨hb, hc⟩ => absurd ((h hb).symm.trans hc) nofun

/-- Settles O29: the event of a step that drops a flag is one that may drop it. -/
theorem stickyFlagsFallOnlyByClearOrReset : Obligations.StickyFlagsFallOnlyByClearOrReset := by
  intro s t hstep
  obtain ⟨e, es, he, hreset | hclr | ⟨hz0, hovf, hdone | hacc⟩⟩ | ⟨hz0, hovf, hdone⟩ := step_sticky hstep
  · exact ⟨fun _ => ⟨e, es, he, .inl hreset⟩, fun _ => ⟨e, es, he, .inl hreset⟩⟩
  · exact ⟨fun _ => ⟨e, es, he, .inr hclr⟩, fun _ => ⟨e, es, he, .inr (.inl hclr)⟩⟩
  · exact ⟨fun h => (h.elim (not_dropped hz0) (not_dropped hovf)).elim, fun h => (not_dropped hdone h).elim⟩
  · exact ⟨fun h => (h.elim (not_dropped hz0) (not_dropped hovf)).elim, fun _ => ⟨e, es, he, .inr (.inr hacc)⟩⟩
  · exact ⟨fun h => (h.elim (not_dropped hz0) (not_dropped hovf)).elim, fun h => (not_dropped hdone h).elim⟩

end Sys2Proof.Proofs
end

/-! ### Proofs: accesses without effect and registers as they stand (R28 to R39, R56 to R60) -/

section
namespace Sys2Proof.Proofs
open Sys2Proof.Machine

/-! #### Accesses that end ERROR (R52, R56, R58) -/

theorem busRead_of_not_supported (s : State) {a : BusAccess} (h : a.supported = false) :
    ∃ d, s.busRead a = .error d := by
  cases ht : targetOf s.params a.addr with
  | unmapped => exact ⟨some 0, by simp only [State.busRead, ht]⟩
  | reg | slotWord | msgWord => exact ⟨none, by simp [State.busRead, ht, h]⟩

theorem busWrite?_of_not_supported (s : State) {a : BusAccess} (v : Word) (h : a.supported = false) :
    s.busWrite? a v = none := by
  cases ht : targetOf s.params a.addr <;> simp [State.busWrite?, ht, h]

/-- An access the bus does not support gets an ERROR, whatever it names. -/
theorem busAccess_of_not_supported (s : State) {a : BusAccess} (h : a.supported = false) :
    ∃ d, s.busAccess a = s.respond (.error d) := by
  cases hop : a.op with
  | read =>
    obtain ⟨d, hd⟩ := busRead_of_not_supported s h
    exact ⟨d, by simp only [State.busAccess, hop, hd]⟩
  | write v => exact ⟨none, by simp only [State.busAccess, hop, busWrite?_of_not_supported s v h]⟩

/-- Settles O21: both causes make the access one the bus does not support. -/
theorem misalignedOrPartialAccessHasNoEffect : Obligations.MisalignedOrPartialAccessHasNoEffect := by
  intro s a es he h
  have hs : a.supported = false := by
    rw [BusAccess.supported, Bool.and_eq_false_iff, beq_eq_false_iff_ne, beq_eq_false_iff_ne]
    exact h
  obtain ⟨d, hd⟩ := busAccess_of_not_supported (s.withEvents es) hs
  exact ⟨d, step_of_busAccess he hd⟩

/-- Settles O20: the three ranges are unmapped, whatever the strobes and the alignment. -/
theorem unmappedAccessGetsAnErrorAndDataZero : Obligations.UnmappedAccessGetsAnErrorAndDataZero := by
  intro s a es he hrange
  have ht : targetOf (s.withEvents es).params a.addr = .unmapped := targetOf_unmapped (by
    rw [State.withEvents_params]
    omega)
  refine ⟨fun hop => step_of_busAccess he ?_, fun v hop => step_of_busAccess he ?_⟩
  · simp only [State.busAccess, hop, State.busRead, ht]
    rfl
  · simp only [State.busAccess, hop, State.busWrite?, ht]
    rfl

/-! #### Reads (R28, R59) -/

/-- Settles O19: a read of any kind is its response recorded. -/
theorem readsHaveNoSideEffect : Obligations.ReadsHaveNoSideEffect :=
  fun _ _ _ _ he => ⟨_, step_of_busAccess he rfl⟩

/-- Settles O58: each of the seven addresses names its register, which a full-word read answers. -/
theorem registersReadAsTheyStandInEveryEngineState : Obligations.RegistersReadAsTheyStandInEveryEngineState := by
  intro s addr v es he hv
  rw [← ctrlWord_eq_ite] at hv
  obtain ⟨r, h4, hr, rfl⟩ := exists_reg_of_mem hv
  exact step_rd_reg r he h4 hr

/-! #### CMD while BUSY and MSG_LEN while IDLE (R29, R34, R207) -/

/-- Settles O16: while BUSY a CMD write is `setOvf`. -/
theorem cmdWriteWhileBusyOnlySetsOvf : Obligations.CmdWriteWhileBusyOnlySetsOvf := by
  intro s v w es he hb
  have hbusy : (s.withEvents es).busy = true := (State.busy_iff _).2 ⟨w, hb⟩
  exact step_wr_reg .cmd he rfl rfl (congrArg some (writeCmd_of_busy v hbusy))

theorem writeReg_msgLen_of_idle {s : State} (v : Word) (h : s.engine = .idle) :
    s.writeReg .msgLen v = some { s with msgLen := v } :=
  if_neg (by simp [(State.busy_eq_false_iff s).2 h])

/-- Settles O26: an IDLE engine takes the word whole, and the read answers the register as it stands. -/
theorem msgLenStoresAllBitsWhileIdle : Obligations.MsgLenStoresAllBitsWhileIdle := fun s v es hidle he =>
  ⟨step_wr_reg .msgLen he rfl rfl (writeReg_msgLen_of_idle (s := s.withEvents es) v hidle), rfl⟩

/-! #### STATUS (R30, R39, R201) -/

/-- STATUS bit by bit. -/
theorem getLsbD_statusWord (s : State) (k : Nat) : s.statusWord.getLsbD k =
    if k = 0 then s.busy else if k = 1 then s.done else if 4 ≤ k ∧ k < 8 then s.err.code.getLsbD (k - 4)
    else if k = 8 then s.valid else if k = 9 then s.z0 else if k = 10 then s.ovf else false := by
  rw [State.statusWord]
  iterate 7 rw [BitVec.getLsbD_append]
  match k with
  | 0 | 1 | 2 | 3 | 4 | 5 | 6 | 7 | 8 | 9 | 10 => simp
  | k + 11 => simp

/-- Bits 3:2 lie above BUSY and DONE. -/
theorem statusWord_bits_3_2 (s : State) : s.statusWord.extractLsb' 2 2 = 0 := by
  rw [State.statusWord]
  iterate 2 rw [BitVec.extractLsb'_append_eq_of_le (by decide)]
  rw [BitVec.extractLsb'_append_eq_of_add_le (by decide)]
  exact BitVec.extractLsb'_eq_self

theorem statusWord_bits_7_4 (s : State) : s.statusWord.extractLsb' 4 4 = s.err.code := by
  rw [State.statusWord]
  iterate 3 rw [BitVec.extractLsb'_append_eq_of_le (by decide)]
  rw [BitVec.extractLsb'_append_eq_of_add_le (by decide)]
  exact BitVec.extractLsb'_eq_self

/-- Bits 31:11 lie above all seven fields. -/
theorem statusWord_bits_31_11 (s : State) : s.statusWord.extractLsb' 11 21 = 0 := by
  rw [State.statusWord]
  iterate 7 rw [BitVec.extractLsb'_append_eq_of_le (by decide)]
  exact BitVec.extractLsb'_eq_self

/-- The codes of R201 in numbers. -/
theorem code_mem (e : ErrCode) : (e, e.code.toNat) ∈
    [(ErrCode.ok, 0), (.illegal, 1), (.uninit, 2), (.length, 3), (.range, 4), (.notOnCurve, 5), (.negZero, 6)] := by
  cases e <;> decide

/-- Settles O24, field by field. -/
theorem statusWordHasTheFieldsInPlace : Obligations.StatusWordHasTheFieldsInPlace := by
  intro s
  refine ⟨getLsbD_statusWord s 0, getLsbD_statusWord s 1, statusWord_bits_7_4 s, getLsbD_statusWord s 8,
    getLsbD_statusWord s 9, getLsbD_statusWord s 10, statusWord_bits_3_2 s, statusWord_bits_31_11 s, ?busy, ?code⟩
  case busy => rw [Ne, ← State.busy_eq_false_iff, Bool.not_eq_false]
  case code =>
    rw [statusWord_bits_7_4]
    exact code_mem s.err

end Sys2Proof.Proofs
end

/-! ### Proofs: inversion, decoding and the group law (R16 to R19, R105) -/

section
namespace Sys2Proof.Proofs
open Sys2Proof.Machine

/-! #### FINV (R105) -/

/-- The inverse is the power p - 2 = 2^255 - 21. -/
theorem fpInv_eq (x : Nat) : fpInv x = x ^ (2 ^ 255 - 21) % (2 ^ 255 - 19) := by
  have hexp : fieldPrime - 2 = 2 ^ 255 - 21 := by rw [fieldPrime_eq]; omega
  rw [fpInv, hexp, fpPow_eq x _ (by norm_num), fieldPrime_eq]

/-- Fermat: a non-zero field element times its inverse is 1. -/
theorem mul_fpInv {x : Nat} (hx : x < fieldPrime) (h0 : x ≠ 0) : x * fpInv x % (2 ^ 255 - 19) = 1 := by
  have := fact_fieldPrime
  have hne : (x : Fp) ≠ 0 := fun h => h0 ((fp_eq_iff hx fieldPrime_pos).1 (h.trans Nat.cast_zero.symm))
  rw [← fpMul_eq, ← fp_eq_iff (fpMul_lt _ _) (by norm_num [fieldPrime]), cast_fpMul, cast_fpInv, Nat.cast_one]
  exact mul_inv_cancel₀ hne

theorem fpInv_zero : fpInv 0 = 0 := by
  have := fact_fieldPrime
  rw [← fp_eq_iff (fpInv_lt 0) fieldPrime_pos, cast_fpInv, Nat.cast_zero]
  exact inv_zero (G₀ := Fp)

/-- Settles O34: FINV writes FE of the inverse and, besides, Z0 only. -/
theorem fieldInverseIsTheFermatPower : Obligations.FieldInverseIsTheFermatPower := by
  intro d a s
  simp only [← fpInv_eq, ← fieldOf_eq_fieldValue]
  have henc := encodes_fe (fpInv_lt (s.fieldOf a))
  have hslot : (((s.setSlot d (fe (fpInv (s.fieldOf a)))).setZ0If (s.fieldOf a == 0)).complete .ok).slot d =
      fe (fpInv (s.fieldOf a)) := State.slot_setSlot_self s d _
  obtain ⟨-, -, hslots, -⟩ := completesWriting_setSlot s d (fe (fpInv (s.fieldOf a)))
  refine ⟨_, rfl, ?_, fun h0 => ?_, fun h0 => ?_, rfl, ⟨rfl, rfl, rfl⟩, ⟨rfl, rfl, rfl, rfl, rfl, rfl, rfl⟩, hslots,
    fun _ _ => rfl, fun _ => rfl, rfl, rfl⟩ <;> rw [hslot]
  · exact henc
  · rw [henc.1]
    exact mul_fpInv (fieldOf_lt s a) h0
  · rw [henc.1, h0, fpInv_zero]

/-! #### Decoding (R19) -/

theorem isRootFor_fpNeg {w : Slot} {x : Nat} (h : IsRootFor w x) : IsRootFor w (fpNeg x) := by
  rw [isRootFor_iff] at h ⊢
  refine ⟨fpNeg_lt x, ?_⟩
  rw [cast_fpNeg, neg_mul_neg]
  exact h.2

/-- An encoding has no root, the root 0 with the sign of none, or a root of its sign: a non-zero root and its negation
have the two signs (R18). -/
theorem roots_cases (w : Slot) : (¬ ∃ x, IsRootFor w x) ∨ (IsRootFor w 0 ∧ w.getLsbD 255 = true) ∨
    ∃ x, IsRootFor w x ∧ x % 2 = (w.getLsbD 255).toNat := by
  refine or_iff_not_imp_left.2 fun h => ?_
  obtain ⟨x, hx⟩ := not_not.1 h
  have hbit : (w.getLsbD 255).toNat < 2 := Bool.toNat_lt _
  by_cases hsign : x % 2 = (w.getLsbD 255).toNat
  · exact .inr ⟨x, hx, hsign⟩
  · by_cases h0 : x = 0
    · subst h0
      exact .inl ⟨hx, Bool.toNat_eq_one.1 (by omega)⟩
    · exact .inr ⟨fpNeg x, isRootFor_fpNeg hx, by rw [fpNeg_mod_two hx.1 h0]; omega⟩

/-- Settles O38: the roots leave three cases, each fixes the decoder's outcome, and the outcomes are distinct. -/
theorem pointDecodeOutcomesAreExclusive : Obligations.PointDecodeOutcomesAreExclusive := by
  intro w
  have decode_of_sign (q : Point) (h : IsRootFor w q.x ∧ q.x % 2 = (w.getLsbD 255).toNat ∧ q.y = fieldValue w) :
      pointDecode w = .ok q := by
    rw [pointDecode_of_rootOfSign h.1 h.2.1, ← h.2.2]
  obtain hno | ⟨hzero, hbit⟩ | ⟨x, hx, hsign⟩ := roots_cases w
  · rw [pointDecode_of_noRoot hno]
    exact ⟨iff_of_true rfl hno, iff_of_false nofun fun h => hno ⟨0, h.1⟩,
      fun q => iff_of_false nofun fun h => hno ⟨q.x, h.1⟩⟩
  · have hdec := pointDecode_of_zeroRoot hzero hbit
    refine ⟨iff_of_false ?_ (not_not.2 ⟨0, hzero⟩), iff_of_true hdec ⟨hzero, hbit⟩,
      fun q => ⟨fun h => ?_, decode_of_sign q⟩⟩
    · simp [hdec]
    · cases hdec.symm.trans h
  · have hdec := pointDecode_of_rootOfSign hx hsign
    refine ⟨iff_of_false ?_ (not_not.2 ⟨x, hx⟩), ⟨fun h => ?_, fun h => pointDecode_of_zeroRoot h.1 h.2⟩,
      fun q => ⟨fun h => ?_, decode_of_sign q⟩⟩
    · simp [hdec]
    · cases hdec.symm.trans h
    · cases hdec.symm.trans h
      exact ⟨hx, hsign, rfl⟩

/-! #### Encoding and decoding (R19) -/

theorem fieldValue_pointEncode {q : Point} (hy : q.y < fieldPrime) : fieldValue (pointEncode q) = q.y := by
  have hlt := fieldPrime_lt
  rw [fieldValue, leValue_pointEncode hy, ← fieldPrime_eq, Nat.add_mul_mod_self_left, Nat.mod_eq_of_lt (hy.trans hlt),
    Nat.mod_eq_of_lt hy]

/-- The sign bit of an encoding is the parity of x (R18). -/
theorem sign_pointEncode {q : Point} (hy : q.y < fieldPrime) :
    ((pointEncode q).getLsbD 255).toNat = q.x % 2 := by
  have hlt := fieldPrime_lt
  rw [← sign_bit, ← leValue_eq, leValue_pointEncode hy]
  omega

/-- The equation of E for (x, y) is R19's equation for the root x. -/
theorem isRootFor_pointEncode {q : Point} (hq : OnCurve q) : IsRootFor (pointEncode q) q.x := by
  obtain ⟨hx, hy, hcurve⟩ := hq
  refine ⟨hx, ?_⟩
  rw [fieldValue_pointEncode hy]
  refine Int.emod_eq_zero_of_dvd ?_
  obtain ⟨k, hk⟩ := Int.dvd_of_emod_eq_zero hcurve
  exact ⟨-k, by linear_combination -hk⟩

theorem pointDecode_pointEncode {q : Point} (hq : OnCurve q) : pointDecode (pointEncode q) = .ok q := by
  rw [pointDecode_of_rootOfSign (isRootFor_pointEncode hq) (sign_pointEncode hq.lt.2).symm,
    fieldValue_pointEncode hq.lt.2]

/-- Settles O39: y fills the low 255 bits and the sign bit 255, so the decoder finds the root x with its own sign. -/
theorem pointDecodeOfEncodeIsThePoint : Obligations.PointDecodeOfEncodeIsThePoint := by
  intro q hq
  have hy := hq.lt.2
  refine ⟨pointDecode_pointEncode hq, fieldValue_pointEncode hy, ?_, leValue_pointEncode hy, fieldPrime_eq ▸ hy⟩
  rw [← sign_pointEncode hy]
  cases (pointEncode q).getLsbD 255 <;> rfl

/-! #### The group law (R16, R17) -/

/-- Settles O42: the denominators of R16 are invertible on E, so the two equations fix both coordinates. -/
theorem edwardsSumIsUnique : Obligations.EdwardsSumIsUnique := by
  intro p q r hp hq
  refine ⟨fun h => ?_, fun h => h ▸ isSum_add hp hq⟩
  let _ := fpField
  obtain ⟨hplus, hminus⟩ := hp.denoms hq
  obtain ⟨hrx, hry, hx, hy⟩ := (isSum_iff p q r).1 h
  obtain ⟨hsx, hsy, hx', hy'⟩ := (isSum_iff p q _).1 (isSum_add hp hq)
  exact point_ext_cast ⟨hrx, hry⟩ ⟨hsx, hsy⟩ (mul_right_cancel₀ hplus (hx.trans hx'.symm))
    (mul_right_cancel₀ hminus (hy.trans hy'.symm))

/-- Settles O44: on E the model's multiple is the recursion's, and B has order ℓ. -/
theorem scalarMultipleIsRepeatedAddition : Obligations.ScalarMultipleIsRepeatedAddition := by
  refine ⟨fun q hq => ⟨hq.smul 0, fun k => ?_⟩, fun k => ?_⟩
  · rw [hq.smul, hq.smul, Point.multiple]
  · rw [onCurve_basePoint.smul, onCurve_basePoint.smul]
    exact basePoint_multiple_mod k

end Sys2Proof.Proofs
end

/-! ### Proofs: signatures sign, verify and agree (R171 to R181) -/

section
namespace Sys2Proof.Proofs
open Sys2Proof.Machine

/-! #### SIGN_SEED, SIGN_EXP, SIGN_KP (R172, R176 to R178) -/

theorem secretScalar_eq (h : Bytes64) : secretScalar h = leValue (clamp (firstHalf h)) := (leValue_eq _).symm

theorem firstHalf_signCore (h : Bytes64) (A : Slot) (M : List Byte) : firstHalf (signCore h A M) =
    pointEncode (basePoint.multiple (hashModL (slotBytes (secondHalf h) ++ M))) := by
  rw [signCore, firstHalf_join, onCurve_basePoint.smul, hashScalar_eq, noncePrefix]

/-- S of SignCore is k·a(h) + r mod ℓ, k the hash over R, A and M (R172). -/
theorem leValue_secondHalf_signCore (h : Bytes64) (A : Slot) (M : List Byte) :
    leValue (secondHalf (signCore h A M)) =
      (hashModL (slotBytes (firstHalf (signCore h A M)) ++ slotBytes A ++ M) * leValue (clamp (firstHalf h)) +
        hashModL (slotBytes (secondHalf h) ++ M)) % orderL := by
  rw [signCore, secondHalf_join, firstHalf_join, (leb32_of_lt_groupOrder (mulAddMod_lt _ _ _)).1, mulAddMod_eq,
    hashScalar_eq, hashScalar_eq, secretScalar_eq, noncePrefix]

/-- The model's SignCore is R172's. -/
theorem isSignature_signCore (h : Bytes64) (A : Slot) (M : List Byte) : IsSignature (signCore h A M) h A M :=
  ⟨firstHalf_signCore h A M, leValue_secondHalf_signCore h A M⟩

theorem completesWriting_setPair (s : State) (d : PairIx) (v : Bytes64) :
    s.CompletesWriting ((s.setPair d v).complete .ok) [d.low, d.high] [] :=
  completesWriting_setSlot_setSlot s d.low d.high (firstHalf v) (secondHalf v)

/-- A command that ends with the signature of the message in DP[d]. -/
theorem exec_writes_signature {i : Instr} {s : State} {d : PairIx} {h : Bytes64} {A : Slot}
    (hexec : exec i s = .next ((s.setPair d (signCore h A s.message)).complete .ok)) :
    ∃ t, exec i s = .next t ∧ IsSignature (t.pair d) h A (s.msg.memRead 0 s.msgLen.toNat) ∧
      s.CompletesWriting t [d.low, d.high] [] := by
  refine ⟨_, hexec, ?_, completesWriting_setPair s d _⟩
  have hpair : ((s.setPair d (signCore h A s.message)).complete .ok).pair d = signCore h A s.message :=
    pair_setPair_self s d _
  rw [hpair]
  exact isSignature_signCore h A s.message

/-- Settles O49: each of the three commands writes SignCore of its key and public key, or fails the length check. -/
theorem signingCommandsWriteTheSignature : Obligations.SigningCommandsWriteTheSignature := by
  refine fun d s => ⟨fun hle => ⟨fun a => ?_, fun a => ?_, fun a b => exec_writes_signature (exec_signKp_of_le hle)⟩,
    fun hlt => ⟨fun a => exec_fails (exec_signSeed_of_lt hlt), fun a => exec_fails (exec_signExp_of_lt hlt),
      fun a b => exec_fails (exec_signKp_of_lt hlt)⟩⟩
  · obtain ⟨t, ht, hsig, hframe⟩ := exec_writes_signature (exec_signSeed_of_le (d := d) (a := a) hle)
    exact ⟨t, _, ht, isPublicKeyOf_publicKey _, hsig, hframe⟩
  · obtain ⟨t, ht, hsig, hframe⟩ := exec_writes_signature (exec_signExp_of_le (d := d) (a := a) hle)
    exact ⟨t, _, ht, isPublicKeyOf_publicKey _, hsig, hframe⟩

/-! #### The three key forms (R171, R176 to R178) -/

theorem clamp_clamp (b : Slot) : clamp (clamp b) = clamp b := by
  refine BitVec.eq_of_getLsbD_eq fun k hk => ?_
  rw [getLsbD_clamp _ k hk, getLsbD_clamp b k hk]
  split_ifs <;> rfl

/-- The expanded key as it may be stored: its first half clamped. -/
def clampedKey (h : Bytes64) : Bytes64 := join (clamp (firstHalf h)) (secondHalf h)

theorem secretScalar_clampedKey (h : Bytes64) : secretScalar (clampedKey h) = secretScalar h := by
  rw [secretScalar, clampedKey, firstHalf_join, clamp_clamp, secretScalar]

theorem publicKey_clampedKey (h : Bytes64) : publicKey (clampedKey h) = publicKey h := by
  rw [publicKey, secretScalar_clampedKey, publicKey]

theorem signCore_clampedKey (h : Bytes64) (A : Slot) (M : List Byte) : signCore (clampedKey h) A M = signCore h A M := by
  have hnonce : noncePrefix (clampedKey h) = noncePrefix h := secondHalf_join _ _
  rw [signCore, hnonce, secretScalar_clampedKey, signCore]

theorem exec_signExp (d e : PairIx) (s : State) :
    exec (.signExp d e) s = finish s (signTo s d (s.pair e) (publicKey (s.pair e))) := rfl

theorem exec_signSeed (d : PairIx) (a : SlotIx) (s : State) :
    exec (.signSeed d a) s = finish s (signTo s d (expandSeed (s.slot a)) (publicKey (expandSeed (s.slot a)))) := rfl

theorem exec_signKp (d : PairIx) (a b : SlotIx) (s : State) :
    exec (.signKp d a b) s = finish s (signTo s d (expandSeed (s.slot a)) (s.slot b)) := rfl

theorem signTo_clampedKey (s : State) (d : PairIx) (h : Bytes64) (A : Slot) :
    signTo s d (clampedKey h) A = signTo s d h A := by
  rw [signTo, signCore_clampedKey, signTo]

/-- Settles O53: SignCore and the public key read only the clamped first half and the second half of the key. -/
theorem keyFormsSignAlike : Obligations.KeyFormsSignAlike := by
  refine fun d e a b s => ⟨fun hpair => ?_, fun hkey => ?_⟩
  · rw [exec_signExp, exec_signSeed]
    obtain hpair | hpair := hpair
    · rw [hpair]
    · rw [hpair, ← clampedKey, publicKey_clampedKey, signTo_clampedKey]
  · rw [exec_signKp, exec_signSeed, hkey]

/-! #### The S check (R181, C1) -/

/-- The top three bits of byte 63 are those of S from 253 on. -/
theorem byte_and_eq_zero_iff (S : Slot) : byteAt S 31 &&& 0xE0 = 0 ↔ leValue S < 2 ^ 253 := by
  have htop : ∀ b : Byte, b &&& 0xE0 = 0 ↔ b.toNat < 32 := by decide
  have hS := S.isLt
  rw [htop, leValue_eq, toNat_byteAt]
  omega

/-- VerifyCore with the S check in numbers. -/
theorem verifyCore_iff_lt (strictS : Bool) (M : List Byte) (sig : Bytes64) (A : Slot) :
    verifyCore strictS M sig A = true ↔ leValue (secondHalf sig) < 2 ^ 253 ∧
      (strictS = true → leValue (secondHalf sig) < orderL) ∧ ∃ Q, pointDecode A = .ok Q ∧
        pointEncode ((Q.neg.multiple (hashModL (slotBytes (firstHalf sig) ++ slotBytes A ++ M))).add
          (basePoint.multiple (leValue (secondHalf sig)))) = firstHalf sig := by
  rw [verifyCore_iff, Verifies, byte_and_eq_zero_iff]

/-- Settles O54: the two rejections are the S check's, and the equation reads S through [S]B, where ℓ vanishes. -/
theorem sCheckRejectsAndMalleabilityRemains : Obligations.SCheckRejectsAndMalleabilityRemains := by
  refine fun M R S A => ⟨fun hle strictS => ?_, fun hle => ?_, fun hlt => ?_⟩
  · rw [← Bool.not_eq_true, verifyCore_iff_lt, secondHalf_join]
    exact fun h => absurd h.1 hle.not_gt
  · rw [← Bool.not_eq_true, verifyCore_iff_lt, secondHalf_join]
    exact fun h => absurd (h.2.1 rfl) hle.not_gt
  · have hval : leValue (leb32 (leValue S + orderL)) = leValue S + orderL := by
      rw [leValue_eq, toNat_leb32 (hlt.trans (by norm_num))]
    have hmultiple : basePoint.multiple (leValue S + orderL) = basePoint.multiple (leValue S) := by
      rw [basePoint_multiple_mod, Nat.add_mod_right, ← basePoint_multiple_mod]
    have hS : leValue S < 2 ^ 253 := (Nat.le_add_right _ _).trans_lt hlt
    rw [Bool.eq_iff_iff, verifyCore_iff_lt, verifyCore_iff_lt]
    simp only [firstHalf_join, secondHalf_join, hval, hmultiple, hlt, hS, Bool.false_eq_true, false_implies]

/-! #### Round trip (L1.2) -/

/-- The coordinates of (-Q) + (-R) are those of -(Q + R): R16's denominators hold the product of the two x. -/
theorem point_neg_add (q r : Point) : (q.add r).neg = q.neg.add r.neg := by
  let _ := fpField
  have hadd := cast_add q r
  have hneg := cast_add q.neg r.neg
  simp only [cast_neg_x, neg_y] at hneg
  refine point_ext_cast (Point.neg_lt (Point.add_lt q r).2) (Point.add_lt _ _) ?_ ?_
  · rw [cast_neg_x, hadd.1, hneg.1]
    simp only [Laws.Edwards.addX, Laws.Edwards.tTerm]
    ring
  · rw [neg_y, hadd.2, hneg.2]
    simp only [Laws.Edwards.addY, Laws.Edwards.tTerm]
    ring

theorem point_neg_zero : Point.zero.neg = Point.zero := by
  rw [Point.neg, Point.zero, fpNeg_zero]

theorem neg_multiple (q : Point) (k : Nat) : q.neg.multiple k = (q.multiple k).neg := by
  induction k with
  | zero => exact point_neg_zero.symm
  | succ k ih => rw [Point.multiple, Point.multiple, ih, point_neg_add]

/-- -Q + (Q + R) = R on E. -/
theorem point_neg_add_cancel_left {q r : Point} (hq : OnCurve q) (hr : OnCurve r) : q.neg.add (q.add r) = r := by
  rw [← hq.neg.add_assoc hq hr, Point.add_comm q.neg, hq.add_neg, Point.zero_add hr.lt]

/-- [k](-Q) + [S]B = [r]B for Q = [a]B and S = k·a + r mod ℓ: what VERIFY computes is the R that was signed. -/
theorem verification_point (a k r : Nat) :
    ((basePoint.multiple a).neg.multiple k).add (basePoint.multiple ((k * a + r) % orderL)) = basePoint.multiple r := by
  have hB := onCurve_basePoint
  rw [neg_multiple, ← basePoint_multiple_mod, hB.multiple_add, Nat.mul_comm, hB.multiple_mul]
  exact point_neg_add_cancel_left ((hB.multiple a).multiple k) (hB.multiple r)

/-- VerifyCore accepts what SignCore makes under the key's own public key. -/
theorem verifyCore_signCore (strictS : Bool) (h : Bytes64) (M : List Byte) :
    verifyCore strictS M (signCore h (publicKey h) M) (publicKey h) = true := by
  have hS := leValue_secondHalf_signCore h (publicKey h) M
  have hlt : leValue (secondHalf (signCore h (publicKey h) M)) < orderL :=
    hS ▸ Nat.mod_lt _ (groupOrder_eq ▸ groupOrder_pos)
  have hkey : pointDecode (publicKey h) = .ok (basePoint.multiple (leValue (clamp (firstHalf h)))) := by
    rw [isPublicKeyOf_publicKey h]
    exact pointDecode_pointEncode (onCurve_basePoint.multiple _)
  refine (verifyCore_iff_lt _ _ _ _).2 ⟨hlt.trans (groupOrder_eq ▸ groupOrder_lt), fun _ => hlt, _, hkey, ?_⟩
  rw [hS, verification_point, ← firstHalf_signCore h (publicKey h) M]

/-- VERIFY after a command that wrote `sig` to its pair, of a key outside that pair. -/
theorem exec_verify_setPair {s : State} {d : PairIx} {b : SlotIx} (sig : Bytes64)
    (hle : s.msgLen.toNat ≤ s.params.msgSize) (hlow : b ≠ d.low) (hhigh : b ≠ d.high) :
    exec (.verify d b) ((s.setPair d sig).complete .ok) = .next ((((s.setPair d sig).complete .ok).setValid
      (verifyCore s.params.strictS s.message sig (s.slot b))).complete .ok) := by
  have hpair : ((s.setPair d sig).complete .ok).pair d = sig := pair_setPair_self s d sig
  have hslot : ((s.setPair d sig).complete .ok).slot b = s.slot b := State.slot_setPair_of_ne s d sig hlow hhigh
  have hverify := exec_verify_of_le (s := (s.setPair d sig).complete .ok) (a := d) (b := b) hle
  rw [hpair, hslot] at hverify
  exact hverify

/-- Settles O52: VERIFY reads the pair SIGN_SEED wrote, and the key and the message SIGN_SEED left alone. -/
theorem signedMessageVerifies : Obligations.SignedMessageVerifies := by
  intro d a b s hle hlow hhigh hkey
  refine ⟨_, _, exec_signSeed_of_le hle, exec_verify_setPair _ hle hlow hhigh, rfl, ?_⟩
  rw [State.complete_valid, State.setValid_valid, hkey]
  exact verifyCore_signCore _ _ _

end Sys2Proof.Proofs
end

/-! ### Proofs: what a command reads of the message RAM (R68) -/

section
namespace Sys2Proof.Proofs
open Sys2Proof.Machine

/-- The state with another message RAM. -/
def withMsg (s : State) (m : Memory) : State := { s with msg := m }

section
variable {s : State} {m : Memory}

/-- Two results of a command, run from `s` and from `s` with the message RAM `m`: one code, or states that differ in the
RAM alone, which neither run wrote. -/
def AlikeButMsg (s : State) (m : Memory) (r r' : Except ErrCode State) : Prop :=
  (∃ u, r = .ok u ∧ u.msg = s.msg ∧ r' = .ok (withMsg u m)) ∨ ∃ e, r = .error e ∧ r' = .error e

theorem alike_ok {u : State} (h : u.msg = s.msg) : AlikeButMsg s m (.ok u) (.ok (withMsg u m)) := .inl ⟨u, rfl, h, rfl⟩

theorem alike_error (e : ErrCode) : AlikeButMsg s m (.error e) (.error e) := .inr ⟨e, rfl, rfl⟩

/-- Both runs read or check the same first. -/
theorem alike_bind {α : Type} {x : Except ErrCode α} {f f' : α → Except ErrCode State}
    (h : ∀ a, AlikeButMsg s m (f a) (f' a)) : AlikeButMsg s m (x >>= f) (x >>= f') := by
  cases x with
  | ok a => exact h a
  | error e => exact alike_error e

theorem alike_ite {c : Prop} [Decidable c] {x y x' y' : Except ErrCode State} (hx : AlikeButMsg s m x x')
    (hy : AlikeButMsg s m y y') : AlikeButMsg s m (if c then x else y) (if c then x' else y') := by
  split_ifs
  · exact hx
  · exact hy

theorem alike_signTo (d : PairIx) (h : Bytes64) (A : Slot) (hm : (withMsg s m).message = s.message) :
    AlikeButMsg s m (signTo s d h A) (signTo (withMsg s m) d h A) := by
  rw [signTo, signTo, hm]
  exact alike_ite (alike_ok rfl) (alike_error _)

/-- The command ends in the same state with either message RAM, and keeps it. -/
def IgnoresMsg (i : Instr) (s : State) (m : Memory) : Prop :=
  ∃ t, exec i s = .next t ∧ exec i (withMsg s m) = .next (withMsg t m) ∧ t.msg = s.msg

theorem ignoresMsg_of_alike {i : Instr} {r r' : Except ErrCode State} (h : exec i s = finish s r)
    (h' : exec i (withMsg s m) = finish (withMsg s m) r') (halike : AlikeButMsg s m r r') : IgnoresMsg i s m := by
  obtain ⟨u, rfl, hu, rfl⟩ | ⟨e, rfl, rfl⟩ := halike
  · exact ⟨_, h, h', hu⟩
  · exact ⟨_, h, h', rfl⟩

/-- A command other than OPEN sees of MSG at most the message MSG[0..MSG_LEN), and writes none of it. -/
theorem ignoresMsg_of_message_eq (i : Instr) (hi : ¬ ∃ b, i = .openMsg b) (hm : (withMsg s m).message = s.message) :
    IgnoresMsg i s m := by
  cases i with
  | fadd | fsub | fmul | fsq | finv | fneg | fcanon | sred | smuladd => exact ⟨_, rfl, rfl, rfl⟩
  | fcswap d a b =>
    refine ignoresMsg_of_alike (exec_fcswap d a b s) (exec_fcswap d a b (withMsg s m)) ?_
    rw [apply_ite Except.ok, apply_ite Except.ok]
    exact alike_ite (alike_ok rfl) (alike_ok rfl)
  | pdec | pdecn | penc | pdbl | pneg | psmb => exact ignoresMsg_of_alike rfl rfl (alike_bind fun _ => alike_ok rfl)
  | padd => exact ignoresMsg_of_alike rfl rfl (alike_bind fun _ => alike_bind fun _ => alike_ok rfl)
  | pdsm =>
    exact ignoresMsg_of_alike rfl rfl (alike_bind fun _ => alike_bind fun _ => alike_bind fun _ => alike_ok rfl)
  | keypair => exact ignoresMsg_of_alike rfl rfl (alike_ite (alike_error _) (alike_ok rfl))
  | signSeed d | signExp d | signKp d => exact ignoresMsg_of_alike rfl rfl (alike_signTo d _ _ hm)
  | verify =>
    refine ignoresMsg_of_alike rfl rfl ?_
    rw [hm]
    exact alike_ite (alike_ok rfl) (alike_error _)
  | openMsg b => exact absurd ⟨b, rfl⟩ hi

/-! #### Memories that agree below MSG_LEN -/

variable (hagree : ∀ n, n < s.msgLen.toNat → m.byte n = s.msg.byte n)
include hagree

theorem message_withMsg : (withMsg s m).message = s.message :=
  Memory.memRead_congr fun j hj => hagree _ (by rwa [Nat.zero_add])

/-- OPEN's signature is MSG[0..64) and its message the rest below MSG_LEN (R186). -/
theorem openVerifies_withMsg (b : SlotIx) (h64 : 64 ≤ s.msgLen.toNat) :
    openVerifies (withMsg s m) b = openVerifies s b := by
  have hsig : m.memRead 0 64 = s.msg.memRead 0 64 := Memory.memRead_congr fun j hj => hagree _ (by omega)
  have hmsg : m.memRead 64 (s.msgLen.toNat - 64) = s.msg.memRead 64 (s.msgLen.toNat - 64) :=
    Memory.memRead_congr fun j hj => hagree _ (by omega)
  show verifyCore s.params.strictS (m.memRead 64 (s.msgLen.toNat - 64)) (bytes64 (m.memRead 0 64)) (s.slot b) = _
  rw [hsig, hmsg, openVerifies]

/-- OPEN ignores what lies at and beyond MSG_LEN, or zeroes the same bytes below it. -/
theorem exec_open_withMsg (b : SlotIx) : IgnoresMsg (.openMsg b) s m ∨
    ∃ t, exec (.openMsg b) s = .next t ∧ t.msg = s.msg.memWrite 0 (List.replicate s.msgLen.toNat 0) ∧
      exec (.openMsg b) (withMsg s m) = .next (withMsg t (m.memWrite 0 (List.replicate s.msgLen.toNat 0))) := by
  by_cases hl : 64 ≤ s.msgLen.toNat ∧ s.msgLen.toNat ≤ s.params.msgSize
  · have h := exec_open_of_le (b := b) hl.1 hl.2
    have h' := exec_open_of_le (s := withMsg s m) (b := b) hl.1 hl.2
    have hsame := openVerifies_withMsg hagree b hl.1
    cases hv : openVerifies s b with
    | true =>
      rw [openResult_of_verifies hv] at h
      rw [openResult_of_verifies (hsame.trans hv)] at h'
      exact .inl ⟨_, h, h', rfl⟩
    | false =>
      rw [openResult_of_not_verifies hv] at h
      rw [openResult_of_not_verifies (hsame.trans hv)] at h'
      exact .inr ⟨_, h, rfl, h'⟩
  · have hout : s.msgLen.toNat < 64 ∨ s.params.msgSize < s.msgLen.toNat := by omega
    exact .inl ⟨_, exec_open_of_lt hout, exec_open_of_lt (s := withMsg s m) hout, rfl⟩

theorem exec_withMsg (i : Instr) : IgnoresMsg i s m ∨ ∃ b, i = .openMsg b ∧
    ∃ t, exec i s = .next t ∧ t.msg = s.msg.memWrite 0 (List.replicate s.msgLen.toNat 0) ∧
      exec i (withMsg s m) = .next (withMsg t (m.memWrite 0 (List.replicate s.msgLen.toNat 0))) := by
  by_cases hi : ∃ b, i = .openMsg b
  · obtain ⟨b, rfl⟩ := hi
    exact (exec_open_withMsg hagree b).imp_right fun h => ⟨b, rfl, h⟩
  · exact .inl (ignoresMsg_of_message_eq i hi (message_withMsg hagree))

end

/-- Settles O55: the two runs keep their memories, or OPEN zeroes both below MSG_LEN. -/
theorem noCommandReadsBeyondMsgLen : Obligations.NoCommandReadsBeyondMsgLen := by
  intro i s m hagree
  obtain ⟨t, ht, hu, hmsg⟩ | ⟨b, hi, t, ht, hmsg, hu⟩ := exec_withMsg hagree i
  · refine ⟨t, _, ht, hu, rfl, ?_, ?_, .inr ⟨hmsg, rfl⟩⟩ <;> rw [hmsg]
    · exact hagree
    · exact fun n _ => ⟨rfl, rfl⟩
  · refine ⟨t, _, ht, hu, rfl, fun n hn => ?_, fun n hn => ?_, .inl ⟨b, hi⟩⟩ <;>
      simp only [withMsg, hmsg, byte_memWrite_zeros]
    · rw [if_pos hn, if_pos hn]
    · rw [if_neg hn.not_gt, if_neg hn.not_gt]
      exact ⟨rfl, rfl⟩

end Sys2Proof.Proofs
end

/-! ### Proofs: the pseudo-instructions (R88) -/

section
namespace Sys2Proof.Proofs
open Sys2Proof.Machine

theorem execList_cons {i : Instr} {is : List Instr} {s t : State} (h : exec i s = .next t) :
    execList (i :: is) s = execList is t := by
  simp only [execList, h]

theorem execList_singleton {i : Instr} {s t : State} (h : exec i s = .next t) : execList [i] s = .next t :=
  execList_cons h

theorem point_neg_neg {q : Point} (hx : q.x < fieldPrime) : q.neg.neg = q := by
  rw [Point.neg, Point.neg, fpNeg_fpNeg hx]

/-- PMOV negates twice. -/
theorem execList_pmov {s : State} {d a : PointIx} {q : Point} (ha : s.point a = some q) (hq : OnCurve q) :
    ∃ t, execList (Pseudo.pmov d a).expand s = .next t ∧ t.err = .ok ∧ t.point d = some q := by
  have h1 := exec_pneg_of_some (d := d) ha
  have h2 : exec (.pneg d d) ((s.setPoint d q.neg).complete .ok) = _ :=
    exec_pneg_of_some (State.point_setPoint_self s d q.neg)
  refine ⟨_, (execList_cons h1).trans (execList_singleton h2), rfl, ?_⟩
  rw [State.complete_point, State.point_setPoint_self, point_neg_neg hq.lt.1]

/-- (Q + (-R)) + R = Q on E. -/
theorem point_add_neg_add_cancel {q r : Point} (hq : OnCurve q) (hr : OnCurve r) : (q.add r.neg).add r = q := by
  rw [hq.add_assoc hr.neg hr, Point.add_comm r.neg, hr.add_neg, Point.add_zero hq.lt]

/-- PSUB adds the negation of P[b]; P[a] is read after P[d] is written, so d must not be a. -/
theorem execList_psub {s : State} {d a b : PointIx} {q r : Point} (hda : d ≠ a) (ha : s.point a = some q)
    (hb : s.point b = some r) (hq : OnCurve q) (hr : OnCurve r) :
    ∃ t u, execList (Pseudo.psub d a b).expand s = .next t ∧ t.err = .ok ∧ t.point d = some u ∧ OnCurve u ∧
      u.add r = q := by
  have h1 := exec_pneg_of_some (d := d) hb
  have h2 : exec (.padd d a d) ((s.setPoint d r.neg).complete .ok) = _ :=
    exec_padd_of_some ((State.point_setPoint_of_ne s r.neg hda.symm).trans ha) (State.point_setPoint_self s d r.neg)
  refine ⟨_, q.add r.neg, (execList_cons h1).trans (execList_singleton h2), rfl, ?_, hq.add hr.neg,
    point_add_neg_add_cancel hq hr⟩
  rw [State.complete_point, State.point_setPoint_self]

/-- PLDB and PLDO are PSMB of a slot that holds 1 or 0. -/
theorem execList_psmb {s : State} {d : PointIx} {i : SlotIx} {k : Nat} (hi : leValue (s.slot i) = k) (hk : k < 2 ^ 255) :
    ∃ t, execList [.psmb d i] s = .next t ∧ t.point d = some (basePoint.multiple k) := by
  have hscalar : s.scalarOf i = k := (scalarOf_eq_leValue s i).trans hi
  refine ⟨_, execList_singleton (exec_psmb_of_lt (hscalar ▸ hk)), ?_⟩
  rw [State.complete_point, State.point_setPoint_self, onCurve_basePoint.smul, hscalar]

theorem multiple_one {q : Point} (hq : OnCurve q) : q.multiple 1 = q := Point.zero_add hq.lt

/-- Settles O56: FDBL is x + x, FMOV the canonical form, and the rest are two negations, a sum with a negation, and
multiples of B. -/
theorem pseudoInstructionsDoWhatTheyName : Obligations.PseudoInstructionsDoWhatTheyName := by
  refine fun s => ⟨fun d a => ?fdbl, fun d a => ?fmov, fun d a q ha hq => execList_pmov ha hq,
    fun d a b q r hda ha hb hq hr => execList_psub (bne_iff_ne.1 hda) ha hb hq hr, fun d i hi => ?pldb,
    fun d i hi => execList_psmb hi (by norm_num)⟩
  case fdbl =>
    obtain ⟨⟨t, ht, henc, -⟩, -⟩ := fieldSumDifferenceAndProduct d a a s
    exact ⟨t, execList_singleton ht, two_mul (fieldValue _) ▸ henc⟩
  case fmov =>
    obtain ⟨-, -, t, ht, henc, -⟩ := fieldSquareNegationAndCanonicalForm d a s
    exact ⟨t, execList_singleton ht, henc⟩
  case pldb =>
    rw [← multiple_one onCurve_basePoint]
    exact execList_psmb hi (by norm_num)

end Sys2Proof.Proofs
end
